-- ==== Sys2Proof/Word.lean ====
section
/-! DEFINITION. The word types of the block: the 32-bit word of every register, working register and
addition (spec/00_scope.md R3, `WORD`), the byte of the input frame of G (R3, `BLOCK_BYTES`), and the
24-bit immediate of a command word (spec/30_encoding.md R45). -/

namespace Sys2Proof

/-- A 32-bit word: every register of the window, every `W[i]`, every sum in G (R3). -/
abbrev Word := BitVec 32

/-- A byte of a block given to G (R60). -/
abbrev Byte := BitVec 8

/-- The unsigned immediate `IMM`, bits 23:0 of a command word (R45, R47). -/
abbrev Imm := BitVec 24

/-- An array register of `n` 32-bit words; element 0 is the most significant word of the value the
array holds (spec/10_state.md section 2, spec/20_memory.md R39). -/
abbrev Words (n : Nat) := Vector Word n

end Sys2Proof
end

