-- ==== Sys2Proof/Syntax.lean ====
section
/-! DEFINITION. The eight commands of spec/30_encoding.md R46, one constructor for each row of
spec/opcode_table.json, in the table's order. -/

namespace Sys2Proof

/-- A command of the block (R46). Wide operands come from staging registers, so a constructor carries
at most the 24-bit immediate (R45). -/
inductive Instr where
  /-- NOP (R95). -/
  | nop
  /-- CFG `seedBits` (R76). -/
  | cfg (seedBits : Imm)
  /-- SEED (R78). -/
  | seed
  /-- SEEDRND (R80). -/
  | seedrnd
  /-- GEN `count` (R87); `count = 0` is no command (R48). -/
  | gen (count : Imm)
  /-- COMPRESS `len` (R69). -/
  | compress (len : Imm)
  /-- CLRERR (R96). -/
  | clrerr
  /-- RESET (R97). -/
  | reset
deriving DecidableEq, Repr

end Sys2Proof
end

