-- ==== Sys2Proof/WellFormed.lean ====
section
/-! DEFINITION. Which terms of `Instr` are commands: all but GEN with `count = 0`, which spec/30_encoding.md
R47 and R48 call a reserved encoding. -/

namespace Sys2Proof

/-- R47, R48: GEN needs a non-zero `IMM`; every other field value of a constructor decodes. -/
def Instr.wellFormed : Instr → Bool
  | .nop => true
  | .cfg _ => true
  | .seed => true
  | .seedrnd => true
  | .gen count => count != 0
  | .compress _ => true
  | .clrerr => true
  | .reset => true

/-- The proposition that `i` is a command of R46. -/
abbrev Instr.WF (i : Instr) : Prop := i.wellFormed = true

end Sys2Proof
end

