-- ==== Sys2Proof/Decode.lean ====
section
/-! DEFINITION. Decoding of a command word (spec/30_encoding.md R45 to R50), total on every 32-bit word,
and the encoder written from the same table. A word that matches no row of R46 is a reserved encoding,
rejected by the clause of R48 it falls under. -/

namespace Sys2Proof

/-- Why a word is a reserved encoding: the three clauses of R48. -/
inductive Reserved where
  /-- `OP` is 0x08 to 0xFF. -/
  | opcode (op : BitVec 8)
  /-- `OP` is 0x00, 0x02, 0x03, 0x06 or 0x07 and `IMM` is not zero. -/
  | immediate (op : BitVec 8)
  /-- The word is 0x04000000, GEN with `count = 0`. -/
  | genZero
deriving DecidableEq, Repr

/-- The field `OP`, bits 31:24 (R45). -/
def opField (w : Word) : BitVec 8 := w.extractLsb' 24 8

/-- The field `IMM`, bits 23:0 (R45). -/
def immField (w : Word) : Imm := w.extractLsb' 0 24

/-- A command whose `IMM` must be zero (R47). -/
def needsZeroImm (op : BitVec 8) (imm : Imm) (i : Instr) : Except Reserved Instr :=
  if imm = 0 then .ok i else .error (.immediate op)

/-- Decoding by operation code (R46, R47, R48). -/
def decodeFields (op : BitVec 8) (imm : Imm) : Except Reserved Instr :=
  if op = 0x00 then needsZeroImm op imm .nop
  else if op = 0x01 then .ok (.cfg imm)
  else if op = 0x02 then needsZeroImm op imm .seed
  else if op = 0x03 then needsZeroImm op imm .seedrnd
  else if op = 0x04 then (if imm = 0 then .error .genZero else .ok (.gen imm))
  else if op = 0x05 then .ok (.compress imm)
  else if op = 0x06 then needsZeroImm op imm .clrerr
  else if op = 0x07 then needsZeroImm op imm .reset
  else .error (.opcode op)

/-- The command that a word written to `CMD` encodes (R49), or the clause of R48 that makes the word a
reserved encoding. There is one length and no mode that changes decoding (R50). -/
def decode (w : Word) : Except Reserved Instr :=
  decodeFields (opField w) (immField w)

/-- The operation code of a command (R46). -/
def Instr.op : Instr → BitVec 8
  | .nop => 0x00
  | .cfg _ => 0x01
  | .seed => 0x02
  | .seedrnd => 0x03
  | .gen _ => 0x04
  | .compress _ => 0x05
  | .clrerr => 0x06
  | .reset => 0x07

/-- The immediate of a command, zero where R47 demands it. -/
def Instr.imm : Instr → Imm
  | .nop => 0
  | .cfg seedBits => seedBits
  | .seed => 0
  | .seedrnd => 0
  | .gen count => count
  | .compress len => len
  | .clrerr => 0
  | .reset => 0

/-- The word of a command: `OP` in 31:24, `IMM` in 23:0 (R45). -/
def encode (i : Instr) : Word := (i.op.setWidth 32 <<< 24) ||| i.imm.setWidth 32

/-- The match and mask columns of R46: `w` can be this command only if `w &&& mask = match`. -/
def Instr.row : Instr → Word × Word
  | .nop => (0x00000000, 0xFFFFFFFF)
  | .cfg _ => (0x01000000, 0xFF000000)
  | .seed => (0x02000000, 0xFFFFFFFF)
  | .seedrnd => (0x03000000, 0xFFFFFFFF)
  | .gen _ => (0x04000000, 0xFF000000)
  | .compress _ => (0x05000000, 0xFF000000)
  | .clrerr => (0x06000000, 0xFFFFFFFF)
  | .reset => (0x07000000, 0xFFFFFFFF)

/-- The word of `nbits` bits that a bit pattern denotes, the bits above `nbits` zero. A command is one
32-bit word, transferred as a number (spec/20_memory.md R37), so no byte order enters. -/
def tableWord (nbits w : Nat) : Word := BitVec.ofNat 32 (w % 2 ^ nbits)

/-- The command decoded from a bit pattern of the opcode table. -/
def decodeTableWord (nbits w : Nat) : Option Instr :=
  match decode (tableWord nbits w) with
  | .ok i => some i
  | .error _ => none

end Sys2Proof
end

