-- ==== Sys2Proof/Config.lean ====
section
/-! DEFINITION. What is fixed for one built block: the constants of spec/00_scope.md R3, the
parameters of R4 and R5 that the spec's model takes as arguments, and the two free values (the
entropy source of R80, and the unspecified prefix of R122). -/

namespace Sys2Proof

/-- The parameters "which the model takes as arguments" (R4, R5): `IV_FROM_AUX`, fixed when the block
is built, and `BASE`, fixed by the platform. A state carries the `Build` of its block, and no step
changes it (log 1). -/
structure Build where
  /-- `IV_FROM_AUX` (R4): G starts from the auxiliary word (true) or from the constants (false). -/
  ivFromAux : Bool
  /-- `BASE` (R5, R32): the bus address of offset 0x000. -/
  base : Nat
deriving DecidableEq, Repr

/-- R32: `BASE` is a multiple of 0x200. Nothing in the block depends on its value. -/
abbrev Build.wf (b : Build) : Prop := b.base % 0x200 = 0

namespace Config

/-- The build of the reset state: `IV_FROM_AUX` at the spec's default, false (R4); `BASE` at 0, which
the spec leaves open (DESIGN CHOICE, log 1). -/
def defaultBuild : Build := { ivFromAux := false, base := 0 }

/-- The one round constant (R3, `K`). -/
def roundConstant : Word := 0x5A827999

/-- The five initial constants (R3, `IV0` to `IV4`). -/
def initialConstants : Words 5 := #v[0x67452301, 0xEFCDAB89, 0x98BADCFE, 0x10325476, 0xC3D2E1F0]

/-- The padded input frame of G, in bytes (R3, `BLOCK_BYTES`). -/
def blockBytes : Nat := 64

/-- The digest, in bits (R3, `DIGEST_BITS`). -/
def digestBits : Nat := 160

/-- The least legal seed size (R3, `SB_MIN`). -/
def minSeedBits : Nat := 160

/-- The greatest legal seed size (R3, `SB_MAX`). -/
def maxSeedBits : Nat := 512

/-- The size of the register window in bytes (R30). -/
def windowBytes : Nat := 0x180

/-- FREE VALUE (log 2). `draw(n)` of R7 and R80: the answer of the entropy source to the draw with
this index, of the width asked for. It has no body, so nothing can be proved of the value but that
it is below `2 ^ width`. -/
opaque entropyDraw (index width : Nat) : BitVec width

/-- FREE VALUE (log 5). How many of the interrupted command's bits had reached `OUT` when a hardware
reset fell inside it (R122: "which prefix is not specified"). -/
opaque resetPrefix (index : Nat) : Nat

end Config

end Sys2Proof
end

