-- ==== Sys2Proof/Machine/State.lean ====
section
/-! DEFINITION. The state of the block (spec/10_state.md R10), the names of its registers and of the
host's accesses, the reasons a step can stop, and the state after power-on reset (R28). -/

namespace Sys2Proof.Machine

/-- The content of `ERR` (R16): no fault, or the code of the first fault since `ERR` was last zero. The
codes 6 to 15 are "never written by the block" (R100), and "a model's type need not contain them" (U13). -/
inductive ErrCode where
  /-- Code 0: no fault pending. -/
  | none
  /-- Code 1, raised by CFG (R101). -/
  | validation
  /-- Code 2, raised by COMPRESS (R102). -/
  | invalidInputLength
  /-- Code 3, raised by SEED, SEEDRND and GEN (R103). -/
  | sequence
  /-- Code 4, raised by any write of a reserved encoding to `CMD` (R103). -/
  | badCommand
  /-- Code 5, raised by SEED (R103). -/
  | seedRange
deriving DecidableEq, Repr

/-- The registers of the window (spec/20_memory.md R31). -/
inductive Reg where
  /-- The command register, a write port (R18). -/
  | cmd
  /-- The read-only view of the flags (R17). -/
  | status
  /-- The active seed size (R19). -/
  | sb
  /-- Staging auxiliary word (R11). -/
  | aux (j : Fin 5)
  /-- Latched auxiliary word (R20). -/
  | caux (j : Fin 5)
  /-- Previous output (R24). -/
  | prev (j : Fin 5)
  /-- Result of COMPRESS (R25). -/
  | digest (j : Fin 5)
  /-- Staging buffer (R12). -/
  | din (j : Fin 16)
  /-- Accumulator (R23). -/
  | z (j : Fin 16)
deriving DecidableEq, Repr

/-- What the outside world does to the block (spec/70_reset_and_hazards.md R137): a bus access or a
hardware reset. Addresses are bus addresses, `BASE` included (R7, R33, R34). -/
inductive Access where
  /-- `MemRead(addr, size)`. -/
  | read (addr size : Nat)
  /-- `MemWrite(addr, size, value)`. Only `size = 4` is ever performed, so a value is one word (R34, R35). -/
  | write (addr size : Nat) (value : Word)
  /-- A hardware reset taken between two accesses (R120, R121). -/
  | hardReset
  /-- A hardware reset that arrives while the command written by `value` to `CMD` is running (R122). -/
  | hardResetDuring (value : Word)
deriving DecidableEq, Repr

/-- Reasons to stop with a fault: there are none. Every fault of the block is a code in `ERR` and a
next state (spec/60_exceptions.md R104), and the block never halts (R139). Safe: nothing raises it. -/
inductive Fault where
deriving DecidableEq, Repr

/-- Reasons to give no step. Except for the first, each is a refused bus access of spec/20_memory.md R35,
answered by `performAccess` only: "A model gives a refused access no step". Safe: the model stops
where the bus reports an error and the block goes on unchanged (log 4). -/
inductive Refusal where
  /-- An instruction without a meaning, in `exec`'s arms; no arm answers it. Safe. -/
  | notModelled (mnemonic : String)
  /-- R35: the size is not 4 bytes. Safe. -/
  | accessSize
  /-- R35: the address is not a multiple of 4. Safe. -/
  | misaligned
  /-- R35: the offset is outside 0x000 to 0x17C. Safe. -/
  | outsideWindow
  /-- R35: the offset is reserved in R31. Safe. -/
  | reservedOffset
  /-- R35: a read of `CMD`. Safe. -/
  | commandRead
  /-- R35: a write to a register not marked W. Safe. -/
  | readOnlyRegister
deriving DecidableEq, Repr

/-- The state of the block, R10, and after it the model's own fields (INVENTORY.md, State). -/
structure State where
  /-- `AUX[0..4]` (R11). -/
  aux : Words 5
  /-- `DIN[0..15]` (R12). -/
  din : Words 16
  /-- `SB` (R19). -/
  sb : BitVec 10
  /-- `CAUX[0..4]` (R20). -/
  caux : Words 5
  /-- `Z[0..15]` (R23). -/
  z : Words 16
  /-- `PREV[0..4]` (R24). -/
  prev : Words 5
  /-- `DIGEST[0..4]` (R25). -/
  digest : Words 5
  /-- `CONFIGURED` (R15). -/
  configured : Bool
  /-- `SEEDED` (R15). -/
  seeded : Bool
  /-- `ERR` (R16). -/
  err : ErrCode
  /-- `OUT`, oldest bit first (R22). -/
  out : List Bool
  /-- The model's own: the parameters of R4 and R5, which no step changes (log 1). -/
  build : Build
  /-- The model's own: how many free values have been taken (log 2). -/
  draws : Nat
  /-- The model's own: host accesses and resets still to come, oldest first (log 3). -/
  pending : List Access
  /-- The model's own: the values returned by performed reads, oldest first (R139, log 3). -/
  answers : List Word
deriving DecidableEq, Repr

/-- The state at power-on: R28 for the block's items, `OUT` empty; the model's own fields as log 1,
log 2 and log 3 say (DESIGN CHOICE). -/
def State.reset : State where
  aux := Vector.replicate 5 0
  din := Vector.replicate 16 0
  sb := 0
  caux := Vector.replicate 5 0
  z := Vector.replicate 16 0
  prev := Vector.replicate 5 0
  digest := Vector.replicate 5 0
  configured := false
  seeded := false
  err := .none
  out := []
  build := Config.defaultBuild
  draws := 0
  pending := []
  answers := []

end Sys2Proof.Machine
end

