-- ==== Sys2Proof/Machine/Ops.lean ====
section
/-! DEFINITION. The named operations over the registers: the register map of spec/20_memory.md R31, the
writes a command or a host access can make, raising a fault (spec/60_exceptions.md R104) and returning
from one (R108), the drop of commands while a fault is pending (R106), and reset (spec/10_state.md R28). -/

namespace Sys2Proof.Machine

/-- What a command or an access answers. -/
abbrev Result := Host.Outcome State Fault Refusal

/-! ### Writes -/

/-- A host write to `AUX[j]` (R34). -/
def State.writeAux (s : State) (j : Fin 5) (v : Word) : State := { s with aux := s.aux.set j v }

/-- A host write to `DIN[j]` (R34). -/
def State.writeDin (s : State) (j : Fin 16) (v : Word) : State := { s with din := s.din.set j v }

/-- `ERR <- c`. -/
def State.setErr (s : State) (c : ErrCode) : State := { s with err := c }

/-- The writes of a successful CFG (R76): `SB`, `CAUX` from `AUX`; `Z`, `PREV` and `SEEDED` cleared;
`CONFIGURED` set. -/
def State.configure (s : State) (sb : BitVec 10) : State :=
  { s with sb := sb, caux := s.aux, z := Vector.replicate 16 0, prev := Vector.replicate 5 0,
           configured := true, seeded := false }

/-- The writes of a successful SEED or SEEDRND (R78, R80): `Z`; `PREV` cleared; `SEEDED` set. -/
def State.loadSeed (s : State) (z : Words 16) : State :=
  { s with z := z, prev := Vector.replicate 5 0, seeded := true }

/-- The writes of one step of the generator (R84). -/
def State.advance (s : State) (z : Words 16) (prev : Words 5) : State :=
  { s with z := z, prev := prev }

/-- `emit(b)`: append `b` to `OUT`, first bit first (R7, R22). -/
def State.emit (s : State) (b : List Bool) : State := { s with out := s.out ++ b }

/-- `DIGEST[j] <- d[j]` for every `j` (R69). -/
def State.writeDigest (s : State) (d : Words 5) : State := { s with digest := d }

/-- Every register and flag takes its reset value; `OUT` is unchanged (R28, R97, R121, R123). The
model's own fields are no registers and stay. -/
def State.resetRegisters (s : State) : State :=
  { s with aux := Vector.replicate 5 0, din := Vector.replicate 16 0, sb := 0,
           caux := Vector.replicate 5 0, z := Vector.replicate 16 0, prev := Vector.replicate 5 0,
           digest := Vector.replicate 5 0, configured := false, seeded := false, err := .none }

/-- One free value has been taken (log 2). -/
def State.countDraw (s : State) : State := { s with draws := s.draws + 1 }

/-- The value a performed read returns to the host (R33, R139). -/
def State.answer (s : State) (v : Word) : State := { s with answers := s.answers ++ [v] }

/-- The accesses still to come (log 3). -/
def State.setPending (s : State) (l : List Access) : State := { s with pending := l }

/-! ### Faults -/

/-- `raise F(code)` (R104): "`ERR <- code`; the command ends; nothing else is written". -/
def raise (c : ErrCode) (s : State) : Result := .next (s.setErr c)

/-- The return from a fault (R108): `ERR <- 0`, "restores nothing else, there being nothing to restore". -/
def acknowledge (s : State) : Result := .next (s.setErr .none)

/-- R49, R106: while `ERR` is not zero the word is dropped and no state changes. Every command but
CLRERR and RESET goes through this check, and a reserved encoding too. -/
def unlessPending (s : State) (r : Result) : Result :=
  if s.err = .none then r else .next s

/-! ### The register window -/

/-- The offset of a register from `BASE`, in bytes (R31). -/
def Reg.offset : Reg → Nat
  | .cmd => 0x000
  | .status => 0x004
  | .sb => 0x008
  | .aux j => 0x010 + 4 * j.val
  | .caux j => 0x030 + 4 * j.val
  | .prev j => 0x050 + 4 * j.val
  | .digest j => 0x070 + 4 * j.val
  | .din j => 0x100 + 4 * j.val
  | .z j => 0x140 + 4 * j.val

/-- The element that offset `off` addresses in an array of `n` words based at `first`. -/
def arrayIndex (n first off : Nat) : Option (Fin n) :=
  if h : (off - first) / 4 < n then
    if first ≤ off ∧ (off - first) % 4 = 0 then some ⟨(off - first) / 4, h⟩ else none
  else none

/-- The register at an offset, `none` where R31 reserves it. -/
def regAt (off : Nat) : Option Reg :=
  if off = 0x000 then some .cmd
  else if off = 0x004 then some .status
  else if off = 0x008 then some .sb
  else if let some j := arrayIndex 5 0x010 off then some (.aux j)
  else if let some j := arrayIndex 5 0x030 off then some (.caux j)
  else if let some j := arrayIndex 5 0x050 off then some (.prev j)
  else if let some j := arrayIndex 5 0x070 off then some (.digest j)
  else if let some j := arrayIndex 16 0x100 off then some (.din j)
  else if let some j := arrayIndex 16 0x140 off then some (.z j)
  else none

/-- The register an access of `size` bytes at bus address `addr` reaches, or the first clause of R35
that refuses it whatever its direction. -/
def resolve (b : Build) (addr size : Nat) : Except Refusal Reg :=
  if size ≠ 4 then .error .accessSize
  else if addr % 4 ≠ 0 then .error .misaligned
  else if addr < b.base ∨ b.base + Config.windowBytes ≤ addr then .error .outsideWindow
  else match regAt (addr - b.base) with
    | some r => .ok r
    | none => .error .reservedOffset

end Sys2Proof.Machine
end

