-- ==== Sys2Proof/Machine/Operands.lean ====
section
/-! DEFINITION. The forms in which a command reads its operands: the zero-extended immediate
(spec/30_encoding.md R47), an array of words as one big-endian integer and back (spec/20_memory.md R39),
big-endian byte strings (spec/00_scope.md R7), `DIN` as a block of bytes (R38) and as a seed (R39), and
the 160 bits of a digest, most significant first (R36 item 4). -/

namespace Sys2Proof.Machine

/-- `zext(IMM)`: unsigned, never signed, scaled or shifted (R47). -/
def zextImm (imm : Imm) : Nat := imm.toNat

/-- The unsigned integer `ws[0] || ws[1] || ...` (R39). -/
def wordsValue {n : Nat} (ws : Words n) : Nat :=
  ws.toList.foldl (fun acc w => acc * 2 ^ 32 + w.toNat) 0

/-- The `n` words of an integer below `2 ^ (32 * n)`, the most significant first (R39). -/
def valueWords (n v : Nat) : Words n :=
  Vector.ofFn fun j => BitVec.ofNat 32 (v >>> (32 * (n - 1 - j.val)))

/-- `be_bytes(v, n)` (R7): byte 0 holds the most significant bits. Defined for `v < 2 ^ (8 * n)`. -/
def beBytes (v : Nat) : Nat → List Byte
  | 0 => []
  | n + 1 => BitVec.ofNat 8 (v >>> (8 * n)) :: beBytes v n

/-- `be_int(s)` (R7): the inverse of `beBytes`, for a byte string of any length. -/
def beInt (s : List Byte) : Nat :=
  s.foldl (fun acc b => acc * 2 ^ 8 + b.toNat) 0

/-- The four bytes of a word, bits 31:24 first (R36 item 1, R38). -/
def wordBytes (w : Word) : List Byte :=
  [w.extractLsb' 24 8, w.extractLsb' 16 8, w.extractLsb' 8 8, w.extractLsb' 0 8]

/-- `DIN` as 64 bytes: byte `k` is `DIN[k div 4]` bits `31 - 8*(k mod 4)` down to `24 - 8*(k mod 4)`
(R38). -/
def dinBytes (s : State) : List Byte := s.din.toList.flatMap wordBytes

/-- The input block of a COMPRESS of length `len`: bytes 0 to `len - 1` of `DIN` (R38). -/
def dinBlock (s : State) (len : Nat) : List Byte := (dinBytes s).take len

/-- `DIN` as the injected seed, right-aligned (R39). -/
def dinSeed (s : State) : Nat := wordsValue s.din

/-- The modulus `M = 2 ^ SB - 1` (R21, R77). -/
def modulus (sb : BitVec 10) : Nat := 2 ^ sb.toNat - 1

/-- The length in bytes of the serialised accumulator, `ceil(SB / 8)` (R81). -/
def serialLength (sb : BitVec 10) : Nat := (sb.toNat + 7) / 8

/-- The 32 bits of a word, bit 31 first. -/
def wordBits (w : Word) : List Bool := (List.range 32).map fun i => w.getMsbD i

/-- The 160 bits of a digest, `H0[31]` first and `H4[0]` last, leading zeros included (R36 item 4, R86). -/
def digestBits (d : Words 5) : List Bool := d.toList.flatMap wordBits

end Sys2Proof.Machine
end

