-- ==== Sys2Proof/Machine/Flags.lean ====
section
/-! DEFINITION. The flags of the block (spec/10_state.md section 4), their view in `STATUS` (R17), and the
checks a command makes on them. No arithmetic result sets a flag (R15). -/

namespace Sys2Proof.Machine

/-- The numeric code of a fault (R100), the 4-bit content of `ERR`. -/
def ErrCode.code : ErrCode → BitVec 4
  | .none => 0
  | .validation => 1
  | .invalidInputLength => 2
  | .sequence => 3
  | .badCommand => 4
  | .seedRange => 5

/-- `STATUS` (R17): bit 0 `CONFIGURED`, bit 1 `SEEDED`, bits 7:4 `ERR`, bit 8 `IVAUX`, the rest 0. -/
def statusWord (s : State) : Word :=
  (0 : BitVec 23) ++ BitVec.ofBool s.build.ivFromAux ++ s.err.code ++ (0 : BitVec 2)
    ++ BitVec.ofBool s.seeded ++ BitVec.ofBool s.configured

/-- `SB` as the window shows it: bits 9:0, the rest 0 (R19). -/
def sbWord (s : State) : Word := s.sb.setWidth 32

/-- The check of SEED and SEEDRND (R78, R80): a generator has been configured. -/
def ifConfigured (s : State) (r : Result) : Result :=
  if s.configured then r else raise .sequence s

/-- The check of GEN (R87): a generator has been configured and seeded. -/
def ifSeeded (s : State) (r : Result) : Result :=
  if s.configured && s.seeded then r else raise .sequence s

/-- The 32-bit value a register shows to a read, `none` for `CMD`, which is write-only (R18, R31). -/
def readReg (s : State) : Reg → Option Word
  | .cmd => none
  | .status => some (statusWord s)
  | .sb => some (sbWord s)
  | .aux j => some s.aux[j]
  | .caux j => some s.caux[j]
  | .prev j => some s.prev[j]
  | .digest j => some s.digest[j]
  | .din j => some s.din[j]
  | .z j => some s.z[j]

end Sys2Proof.Machine
end

