-- ==== Sys2Proof/Machine/Control.lean ====
section
/-! DEFINITION. The control commands NOP, CLRERR and RESET (spec/42_control.md), "the whole system group"
(R98). -/

namespace Sys2Proof.Machine

/-- NOP (R95): no state is read or written, whatever `ERR` holds. -/
def execNop (s : State) : Result := unlessPending s (.next s)

/-- CLRERR (R96): acts whether `ERR` is zero or not. -/
def execClrerr (s : State) : Result := acknowledge s

/-- RESET (R97): acts whether `ERR` is zero or not. -/
def execReset (s : State) : Result := .next s.resetRegisters

end Sys2Proof.Machine
end

