-- ==== Sys2Proof/Machine/Compression.lean ====
section
/-! DEFINITION. The compression function G (spec/40_compression_G.md R60 to R68) and the command
COMPRESS (R69). G is a pure function: its working registers are local to one evaluation (R13). -/

namespace Sys2Proof.Machine

/-- The five working registers of G (R13). -/
structure WorkRegs where
  /-- `A`. -/
  a : Word
  /-- `B`. -/
  b : Word
  /-- `C`. -/
  c : Word
  /-- `D`. -/
  d : Word
  /-- `E`. -/
  e : Word
deriving DecidableEq, Repr

/-- `rotl32(x, n)` (R7). -/
def rotl32 (x : Word) (n : Nat) : Word := (x <<< n) ||| (x >>> (32 - n))

/-- Step 1 of G (R61): zero bytes on the right up to 64. -/
def padBlock (block : List Byte) : List Byte :=
  block ++ List.replicate (Config.blockBytes - block.length) 0

/-- Step 2 of G (R62): big-endian words, four bytes each. -/
def blockWords : List Byte → List Word
  | b0 :: b1 :: b2 :: b3 :: rest => (b0 ++ b1 ++ b2 ++ b3) :: blockWords rest
  | _ => []

/-- Step 3 of G (R63): the values `I0` to `I4`, the constants or the words of `aux`. -/
def initialWords (ivFromAux : Bool) (aux : Words 5) : Words 5 :=
  if ivFromAux then aux else Config.initialConstants

/-- `A <- I0; B <- I1; C <- I2; D <- I3; E <- I4` (R63). -/
def initialRegs (iv : Words 5) : WorkRegs := ⟨iv[0], iv[1], iv[2], iv[3], iv[4]⟩

/-- The selection function `f` of a step (R64). -/
def gSelect (b c d : Word) : Word := (b &&& c) ||| (~~~b &&& d)

/-- One step of G on the word `w = W[i]` (R64). -/
def gStep (r : WorkRegs) (w : Word) : WorkRegs where
  a := rotl32 r.a 5 + gSelect r.b r.c r.d + r.e + Config.roundConstant + w
  b := r.a
  c := rotl32 r.b 30
  d := r.c
  e := r.d

/-- Step 4 of G (R65): one step for each word, in order. -/
def gLoop (r : WorkRegs) (ws : List Word) : WorkRegs := ws.foldl gStep r

/-- Steps 5 and 6 of G (R66, R67): the sums with the initial values, `H0` first. -/
def feedForward (iv : Words 5) (r : WorkRegs) : Words 5 :=
  #v[r.a + iv[0], r.b + iv[1], r.c + iv[2], r.d + iv[3], r.e + iv[4]]

/-- G on a block that fits the frame, steps 1 to 6 (R68 after its length check). -/
def gDigest (ivFromAux : Bool) (aux : Words 5) (block : List Byte) : Words 5 :=
  let iv := initialWords ivFromAux aux
  feedForward iv (gLoop (initialRegs iv) (blockWords (padBlock block)))

/-- G (R68): a block of more than 64 bytes is a contract violation and fails with InvalidInputLength
(R60, R61). -/
def compressG (ivFromAux : Bool) (aux : Words 5) (block : List Byte) : Except ErrCode (Words 5) :=
  if Config.blockBytes < block.length then .error .invalidInputLength
  else .ok (gDigest ivFromAux aux block)

/-- COMPRESS `len` (R69): `DIGEST <- G(AUX, bytes 0 .. len-1 of DIN)`; needs neither `CONFIGURED` nor
`SEEDED`; InvalidInputLength iff `len > 64`. -/
def execCompress (len : Imm) (s : State) : Result :=
  unlessPending s <|
    if Config.blockBytes < zextImm len then raise .invalidInputLength s
    else .next (s.writeDigest (gDigest s.build.ivFromAux s.aux (dinBlock s (zextImm len))))

end Sys2Proof.Machine
end

