-- ==== Sys2Proof/Machine/Generator.lean ====
section
/-! DEFINITION. The bit generator (spec/41_generator.md): the commands CFG, SEED, SEEDRND and GEN, and the
step of the generator that GEN repeats. -/

namespace Sys2Proof.Machine

/-- R75: the seed sizes CFG accepts, both ends legal. -/
def legalSeedBits (n : Nat) : Bool := Config.minSeedBits ≤ n && n ≤ Config.maxSeedBits

/-- CFG `seedBits` (R76): ValidationError iff outside 160 to 512, else construct the generator. -/
def execCfg (seedBits : Imm) (s : State) : Result :=
  unlessPending s <|
    if legalSeedBits (zextImm seedBits) then .next (s.configure (BitVec.ofNat 10 (zextImm seedBits)))
    else raise .validation s

/-- SEED (R78): `Z` from `DIN` as an integer; Sequence is checked before SeedRange. -/
def execSeed (s : State) : Result :=
  unlessPending s <| ifConfigured s <|
    if 2 ^ s.sb.toNat ≤ dinSeed s then raise .seedRange s
    else .next (s.loadSeed (valueWords 16 (dinSeed s)))

/-- The draw SEEDRND takes: an `SB`-bit value of the entropy source (R80), free (log 2). -/
def entropySeed (s : State) : Nat := (Config.entropyDraw s.draws s.sb.toNat).toNat

/-- SEEDRND (R80): `Z <- zext_512(draw(SB))`. -/
def execSeedrnd (s : State) : Result :=
  unlessPending s <| ifConfigured s <|
    .next (s.loadSeed (valueWords 16 (entropySeed s))).countDraw

/-- Step action 1 (R82): `zc = Z mod M`. -/
def zCandidate (s : State) : Nat := wordsValue s.z % modulus s.sb

/-- Step action 2 (R81): `zc` as a big-endian byte string of `ceil(SB/8)` bytes. -/
def serializedZ (s : State) : List Byte := beBytes (zCandidate s) (serialLength s.sb)

/-- Step action 3 (R83): `G(CAUX, serialised zc)`. The string has at most 64 bytes, since `SB` is at
most 512, so the length check of R61 cannot fire (R83; log 6 for `SB` above 512). -/
def stepDigest (s : State) : Words 5 := gDigest s.build.ivFromAux s.caux (serializedZ s)

/-- Step action 4 (R84): `(1 + zc + PREV) mod M`, an exact sum reduced once; `PREV` here is the digest
of the previous step. -/
def nextZ (s : State) : Nat := (1 + zCandidate s + wordsValue s.prev) % modulus s.sb

/-- The writes of one step of the generator (R84, R85). -/
def genStep (s : State) : State := s.advance (valueWords 16 (nextZ s)) (stepDigest s)

/-- The loop of R87 for `steps` more iterations, `count` more bits wanted: a step, then the first
`min 160 count` bits of its digest are emitted. -/
def genLoop : (steps count : Nat) → State → State
  | 0, _, s => s
  | steps + 1, count, s =>
    genLoop steps (count - Config.digestBits)
      ((genStep s).emit ((digestBits (stepDigest s)).take (min Config.digestBits count)))

/-- The number of steps of a GEN, `ceil(count / 160)` (R87). -/
def stepCount (count : Nat) : Nat := (count + 159) / Config.digestBits

/-- `generate(count)` for any number of bits (R87, R57): the bits of `ceil(count / 160)` steps, the tail
of the last digest discarded (R88). -/
def generate (count : Nat) (s : State) : State := genLoop (stepCount count) count s

/-- GEN `count` (R87). `count = 0` is a reserved encoding (R48) and no decoded GEN has it; here it raises
BadCommand as R103 says, before any other check (R107). -/
def execGen (count : Imm) (s : State) : Result :=
  unlessPending s <|
    if count = 0 then raise .badCommand s
    else ifSeeded s (.next (generate (zextImm count) s))

end Sys2Proof.Machine
end

