-- ==== Sys2Proof/Machine/Dispatch.lean ====
section
/-! DEFINITION. What each command does, one arm per row of spec/30_encoding.md R46. -/

namespace Sys2Proof.Machine

def exec (i : Instr) (s : State) : Host.Outcome State Fault Refusal :=
  match i with
  | .nop => Sys2Proof.Machine.execNop s
  | .cfg seedBits => Sys2Proof.Machine.execCfg seedBits s
  | .seed => Sys2Proof.Machine.execSeed s
  | .seedrnd => Sys2Proof.Machine.execSeedrnd s
  | .gen count => Sys2Proof.Machine.execGen count s
  | .compress len => Sys2Proof.Machine.execCompress len s
  | .clrerr => Sys2Proof.Machine.execClrerr s
  | .reset => Sys2Proof.Machine.execReset s

end Sys2Proof.Machine
end

