-- ==== Sys2Proof/Machine/Bus.lean ====
section
/-! DEFINITION. The events of the outside world: reads and writes of the register window
(spec/20_memory.md R33 to R35), the command a write to `CMD` performs (spec/30_encoding.md R49), and
hardware reset, between commands (spec/70_reset_and_hazards.md R121) or during one (R122). -/

namespace Sys2Proof.Machine

/-- The effect of writing `w` to `CMD`, total on every word (R49): the command `w` encodes, or BadCommand;
while `ERR` is not zero a reserved encoding is dropped, and so is a command (inside its meaning). -/
def performCommand (w : Word) (s : State) : Result :=
  match decode w with
  | .ok i => exec i s
  | .error _ => unlessPending s (raise .badCommand s)

/-- `MemRead(addr, size)` (R33): the value goes to the host, no register changes. -/
def performRead (addr size : Nat) (s : State) : Result :=
  match resolve s.build addr size with
  | .error r => .refused r
  | .ok r =>
    match readReg s r with
    | some v => .next (s.answer v)
    | none => .refused .commandRead

/-- A write of `v` to the register `r` (R34), refused where R31 does not mark it W (R35). -/
def writeReg (r : Reg) (v : Word) (s : State) : Result :=
  match r with
  | .cmd => performCommand v s
  | .aux j => .next (s.writeAux j v)
  | .din j => .next (s.writeDin j v)
  | .status => .refused .readOnlyRegister
  | .sb => .refused .readOnlyRegister
  | .caux _ => .refused .readOnlyRegister
  | .prev _ => .refused .readOnlyRegister
  | .digest _ => .refused .readOnlyRegister
  | .z _ => .refused .readOnlyRegister

/-- `MemWrite(addr, size, v)` (R34). -/
def performWrite (addr size : Nat) (v : Word) (s : State) : Result :=
  match resolve s.build addr size with
  | .error r => .refused r
  | .ok r => writeReg r v s

/-- The bits a command appends to `OUT` between the states `s` and `t`. -/
def emitted (s t : State) : List Bool := t.out.drop s.out.length

/-- The state after a hardware reset inside a command that would have emitted `bits` (R122): reset
registers, and a free prefix of `bits` on `OUT` (log 5). -/
def resetAfter (bits : List Bool) (s : State) : State :=
  (s.resetRegisters.emit (bits.take (Config.resetPrefix s.draws))).countDraw

/-- A hardware reset that arrives while the command written by `w` runs (R122). -/
def performResetDuring (w : Word) (s : State) : Result :=
  match performCommand w s with
  | .next t => .next (resetAfter (emitted s t) s)
  | .fault f => .fault f
  | .refused r => .refused r

/-- One event of the outside world, performed to its end before the next begins (R41, R42). -/
def performAccess (a : Access) (s : State) : Result :=
  match a with
  | .read addr size => performRead addr size s
  | .write addr size v => performWrite addr size v s
  | .hardReset => .next s.resetRegisters
  | .hardResetDuring w => performResetDuring w s

/-- The next event, in the order the host issues them (R42). With none, the block waits (R121): nothing
changes. -/
def stepPending (s : State) : Result :=
  match s.pending with
  | [] => .next s
  | a :: rest => performAccess a (s.setPending rest)

/-- The host access that writes the word `w` to `CMD`. -/
def commandAccess (b : Build) (w : Word) : Access := .write (b.base + Reg.cmd.offset) 4 w

/-- `s` with a write of `w` to `CMD` as its next event (log 3). -/
def placeCommand (s : State) (w : Word) : State :=
  s.setPending (commandAccess s.build w :: s.pending)

end Sys2Proof.Machine
end

