-- ==== Sys2Proof/Machine/Step.lean ====
section
/-! DEFINITION. One step of the block: one event of the outside world (spec/00_scope.md R6,
spec/20_memory.md R42). -/

namespace Sys2Proof.Machine

/-- One step: the next pending access or reset is performed to its end. -/
def step (s : State) : Host.Outcome State Fault Refusal := stepPending s

/-- The state in which the next step performs the command word `w` of the opcode table. The block fetches
nothing (R14): a command is what the host writes to `CMD` (log 3). -/
def State.withFetchWord (s : State) (nbits w : Nat) : State := placeCommand s (tableWord nbits w)

end Sys2Proof.Machine
end

