-- ==== Sys2Proof/Machine/Driver.lean ====
section
/-! DEFINITION. The host software's side of the interface: bus access syntax (spec/30_encoding.md R52),
pseudo-instructions (R53), and the document's library surface as sequences of accesses (R54 to R59),
with the errors the host raises before it touches the block (spec/60_exceptions.md R110). The hardware
sees only the accesses; no meaning of a command depends on this file. -/

namespace Sys2Proof.Machine

/-- An error the host raises itself; the block never sees it (R110). -/
inductive HostError where
  /-- ValidationError: malformed `auxiliaryWordHex` or `seedBits` (R54, R55, R110). -/
  | validation
  /-- InvalidInputLength: a block of more than 64 bytes handed to G (R59, R110). -/
  | invalidInputLength
deriving DecidableEq, Repr

/-- `wr <REG>, <value>` (R52). -/
def wr (b : Build) (r : Reg) (v : Word) : Access := .write (b.base + r.offset) 4 v

/-- `rd <REG>` (R52). -/
def rd (b : Build) (r : Reg) : Access := .read (b.base + r.offset) 4

/-- A command line, short for `wr CMD, <word>` (R51, R52). -/
def issue (b : Build) (i : Instr) : Access := wr b .cmd (encode i)

/-- `ldaux h`: `wr AUX[j], h[159-32j : 128-32j]` for `j = 0` to 4 (R53). -/
def ldaux (b : Build) (h : BitVec 160) : List Access :=
  (List.finRange 5).map fun j => wr b (.aux j) (h.extractLsb' (128 - 32 * j.val) 32)

/-- `ldseed v`: `wr DIN[j], v[511-32j : 480-32j]` for `j = 0` to 15, right-aligned (R53, R39). -/
def ldseed (b : Build) (v : BitVec 512) : List Access :=
  (List.finRange 16).map fun j => wr b (.din j) (v.extractLsb' (480 - 32 * j.val) 32)

/-- `ldblk bytes`: the bytes, zero-filled on the right to 64, left-aligned into `DIN` (R53, R38). R53 gives
an expansion for at most 64 bytes only; of a longer string the first 64 bytes are written (DESIGN CHOICE,
log 10). -/
def ldblk (b : Build) (bytes : List Byte) : List Access :=
  (List.finRange 16).map fun j => wr b (.din j) ((blockWords (padBlock bytes)).getD j.val 0)

/-- `step`: one whole step of the generator, all 160 bits emitted (R53). -/
def stepCommand (b : Build) : Access := issue b (.gen 160)

/-- The six ASCII whitespace characters of R55: tab, line feed, vertical tab, form feed, carriage
return, space. -/
def isSpace (c : Char) : Bool := c.toNat == 32 || (9 ≤ c.toNat && c.toNat ≤ 13)

/-- A hexadecimal digit, either letter case (R55). -/
def hexDigit (c : Char) : Option Nat :=
  if 48 ≤ c.toNat ∧ c.toNat ≤ 57 then some (c.toNat - 48)
  else if 97 ≤ c.toNat ∧ c.toNat ≤ 102 then some (c.toNat - 87)
  else if 65 ≤ c.toNat ∧ c.toNat ≤ 70 then some (c.toNat - 55)
  else none

/-- A decimal digit. -/
def decDigit (c : Char) : Option Nat :=
  if 48 ≤ c.toNat ∧ c.toNat ≤ 57 then some (c.toNat - 48) else none

/-- A string of digits as a number, first digit most significant; `none` if a character is no digit. -/
def digitsValue (digit : Char → Option Nat) (radix : Nat) : List Char → Nat → Option Nat
  | [], acc => some acc
  | c :: cs, acc =>
    match digit c with
    | some d => digitsValue digit radix cs (acc * radix + d)
    | none => none

/-- Hex text to auxiliary word (R55): whitespace removed, exactly 40 hexadecimal digits, the first most
significant. -/
def parseAux (text : List Char) : Except HostError (BitVec 160) :=
  let digits := text.filter fun c => !isSpace c
  if digits.length ≠ 40 then .error .validation
  else match digitsValue hexDigit 16 digits 0 with
    | some v => .ok (BitVec.ofNat 160 v)
    | none => .error .validation

/-- Decimal text to integer, the parse of `seedBits` and `count` (R56); a leading minus sign makes a
negative integer, which R110 then rejects (log 10). -/
def parseInt (text : List Char) : Option Int :=
  match text with
  | [] => none
  | '-' :: [] => none
  | '-' :: cs => (digitsValue decDigit 10 cs 0).map fun n => -(n : Int)
  | cs => (digitsValue decDigit 10 cs 0).map fun n => (n : Int)

/-- `seedBits` as an immediate: an integer that does not fit `IMM` is the host's ValidationError (R54,
R110). -/
def seedBitsImm (n : Int) : Except HostError Imm :=
  if 0 ≤ n ∧ n < 2 ^ 24 then .ok (BitVec.ofNat 24 n.toNat) else .error .validation

/-- `createGenerator(seedBits, auxiliaryWordHex)` (R54): the accesses that construct a generator, seeded
from the entropy source, or from an injected seed. The host then reads `STATUS` (R54, R124). -/
def createGenerator (b : Build) (seedBits : Int) (auxText : List Char) (seed : Option (BitVec 512)) :
    Except HostError (List Access) := do
  let h ← parseAux auxText
  let n ← seedBitsImm seedBits
  let seeding := match seed with
    | none => [issue b .seedrnd]
    | some v => ldseed b v ++ [issue b .seed]
  return ldaux b h ++ [issue b (.cfg n)] ++ seeding

/-- The same from the text forms (R56): a `seedBits` text that is no integer is ValidationError. -/
def createGeneratorText (b : Build) (seedBits auxText : List Char) (seed : Option (BitVec 512)) :
    Except HostError (List Access) :=
  match parseInt seedBits with
  | none => .error .validation
  | some n => createGenerator b n auxText seed

/-- The greatest multiple of 160 that a GEN can count, 160 * 104857. -/
def splitChunk : Nat := 16777120

/-- One way to split a count as R58 asks: alone if it fits `IMM`, else pieces that are multiples of 160
and a last piece. -/
def splitCount (count : Nat) : List Nat :=
  if count < 2 ^ 24 then [count]
  else List.replicate ((count - 1) / splitChunk) splitChunk
    ++ [count - (count - 1) / splitChunk * splitChunk]

/-- What R58 asks of a split: the pieces sum to `count`, each fits a GEN, every piece but the last is a
multiple of 160. -/
def ValidSplit (count : Nat) (cs : List Nat) : Prop :=
  cs.sum = count ∧ (∀ c ∈ cs, 1 ≤ c ∧ c < 2 ^ 24) ∧ ∀ c ∈ cs.dropLast, c % 160 = 0

/-- `Generator.generate(count)` (R57, R58). -/
def generateAccesses (b : Build) (count : Nat) : List Access :=
  (splitCount count).map fun c => issue b (.gen (BitVec.ofNat 24 c))

/-- The string `generate` returns for the bits appended to `OUT` (R57). -/
def bitString (bits : List Bool) : List Char := bits.map fun b => if b then '1' else '0'

/-- `G(auxiliaryWord, block)` for a host that wants the compression function alone (R59); of the two
answers R59 allows to a long block, the host's own error. -/
def hostG (b : Build) (aux : BitVec 160) (block : List Byte) : Except HostError (List Access) :=
  if Config.blockBytes < block.length then .error .invalidInputLength
  else .ok (ldaux b aux ++ ldblk b block ++ [issue b (.compress (BitVec.ofNat 24 block.length))]
    ++ (List.finRange 5).map fun j => rd b (.digest j))

end Sys2Proof.Machine
end

