-- ==== Sys2Proof/Machine/Assembler.lean ====
section
/-! DEFINITION. The assembler syntax of spec/30_encoding.md R51 to R53, "so that programs and test vectors
can be written down; it has no other standing": abstract lines, their expansion into accesses, and the
reading of a text line. -/

namespace Sys2Proof.Machine

/-- One line of assembly (R51, R52, R53). -/
inductive AsmLine where
  /-- A command (R51). -/
  | command (i : Instr)
  /-- `.word <w>`: any word written to `CMD` (R51). -/
  | word (w : Word)
  /-- `wr <REG>, <value>` (R52). -/
  | wr (r : Reg) (v : Word)
  /-- `rd <REG>` (R52). -/
  | rd (r : Reg)
  /-- `step` (R53). -/
  | step
  /-- `ldaux <h>` (R53). -/
  | ldaux (h : BitVec 160)
  /-- `ldseed <v>` (R53). -/
  | ldseed (v : BitVec 512)
  /-- `ldblk <bytes>` (R53); more than 64 bytes, which R53 gives no expansion, are cut to the first 64
  (DESIGN CHOICE, log 10). -/
  | ldblk (bytes : List Byte)
deriving DecidableEq, Repr

/-- The accesses a line stands for (R51, R52, R53). -/
def expandLine (b : Build) : AsmLine → List Access
  | .command i => [issue b i]
  | .word w => [Sys2Proof.Machine.wr b .cmd w]
  | .wr r v => [Sys2Proof.Machine.wr b r v]
  | .rd r => [Sys2Proof.Machine.rd b r]
  | .step => [stepCommand b]
  | .ldaux h => Sys2Proof.Machine.ldaux b h
  | .ldseed v => Sys2Proof.Machine.ldseed b v
  | .ldblk bytes => Sys2Proof.Machine.ldblk b bytes

/-- The accesses of a program, line after line (R42). -/
def expandProgram (b : Build) (p : List AsmLine) : List Access := p.flatMap (expandLine b)

/-- The text of a line before its comment, which `;` starts (R51). -/
def dropComment : List Char → List Char
  | [] => []
  | c :: cs => if c = ';' then [] else c :: dropComment cs

/-- The words of a line, split at whitespace and commas; `acc` is the word being read, reversed. -/
def tokens : List Char → List Char → List (List Char)
  | [], [] => []
  | [], acc => [acc.reverse]
  | c :: cs, acc =>
    if isSpace c || c = ',' then
      (if acc.isEmpty then tokens cs [] else acc.reverse :: tokens cs [])
    else tokens cs (c :: acc)

/-- A number, decimal or `0x` hexadecimal (R51); the digits may be of either letter case (DESIGN CHOICE,
log 10). -/
def parseNumber : List Char → Option Nat
  | [] => none
  | ['0', 'x'] => none
  | '0' :: 'x' :: cs => digitsValue hexDigit 16 cs 0
  | cs => digitsValue decDigit 10 cs 0

/-- A number of a line that must be below `bound`. -/
def parseBelow (bound : Nat) (t : List Char) : Option Nat :=
  match parseNumber t with
  | some n => if n < bound then some n else none
  | none => none

/-- The index part `[j]` of a register name (R52). -/
def parseIndex (n : Nat) (t : List Char) : Option (Fin n) :=
  match t with
  | '[' :: cs =>
    match cs.reverse with
    | ']' :: digits =>
      match digitsValue decDigit 10 digits.reverse 0 with
      | some j => if h : j < n ∧ digits ≠ [] then some ⟨j, h.1⟩ else none
      | none => none
    | _ => none
  | _ => none

/-- A register name of R31 with its index (R52). -/
def parseReg : List Char → Option Reg
  | ['C', 'M', 'D'] => some .cmd
  | ['S', 'T', 'A', 'T', 'U', 'S'] => some .status
  | ['S', 'B'] => some .sb
  | 'A' :: 'U' :: 'X' :: t => (parseIndex 5 t).map .aux
  | 'C' :: 'A' :: 'U' :: 'X' :: t => (parseIndex 5 t).map .caux
  | 'P' :: 'R' :: 'E' :: 'V' :: t => (parseIndex 5 t).map .prev
  | 'D' :: 'I' :: 'G' :: 'E' :: 'S' :: 'T' :: t => (parseIndex 5 t).map .digest
  | 'D' :: 'I' :: 'N' :: t => (parseIndex 16 t).map .din
  | 'Z' :: t => (parseIndex 16 t).map .z
  | _ => none

/-- The reading of the words of a line (R51, R52, R53); `ldblk`'s text form is not given and is not read,
and the operand of `ldaux` is `0x` and 40 digits (DESIGN CHOICE, log 10). -/
def parseTokens : List (List Char) → Option AsmLine
  | [['n', 'o', 'p']] => some (.command .nop)
  | [['c', 'f', 'g'], n] => (parseBelow (2 ^ 24) n).map fun k => .command (.cfg (BitVec.ofNat 24 k))
  | [['s', 'e', 'e', 'd']] => some (.command .seed)
  | [['s', 'e', 'e', 'd', 'r', 'n', 'd']] => some (.command .seedrnd)
  | [['g', 'e', 'n'], n] =>
    match parseBelow (2 ^ 24) n with
    | some k => if k = 0 then none else some (.command (.gen (BitVec.ofNat 24 k)))
    | none => none
  | [['c', 'o', 'm', 'p', 'r', 'e', 's', 's'], n] =>
    (parseBelow (2 ^ 24) n).map fun k => .command (.compress (BitVec.ofNat 24 k))
  | [['c', 'l', 'r', 'e', 'r', 'r']] => some (.command .clrerr)
  | [['r', 'e', 's', 'e', 't']] => some (.command .reset)
  | [['.', 'w', 'o', 'r', 'd'], n] => (parseBelow (2 ^ 32) n).map fun k => .word (BitVec.ofNat 32 k)
  | [['w', 'r'], r, n] =>
    match parseReg r, parseBelow (2 ^ 32) n with
    | some r, some k => some (.wr r (BitVec.ofNat 32 k))
    | _, _ => none
  | [['r', 'd'], r] => (parseReg r).map .rd
  | [['s', 't', 'e', 'p']] => some .step
  | [['l', 'd', 'a', 'u', 'x'], '0' :: 'x' :: cs] =>
    if cs.length = 40 then (digitsValue hexDigit 16 cs 0).map fun k => .ldaux (BitVec.ofNat 160 k)
    else none
  | [['l', 'd', 's', 'e', 'e', 'd'], n] => (parseBelow (2 ^ 512) n).map fun k => .ldseed (BitVec.ofNat 512 k)
  | _ => none

/-- A line of text: no line at all if it is blank or a comment, `none` if it is no assembly. -/
def parseLine (text : List Char) : Option (List AsmLine) :=
  match tokens (dropComment text) [] with
  | [] => some []
  | ts => (parseTokens ts).map fun l => [l]

end Sys2Proof.Machine
end

