-- ==== Sys2Proof/Safety.lean ====
section
/-! DEFINITION. What the rules promise of every state a run reaches (spec/10_state.md R26), and what
counts as a safe step. -/

namespace Sys2Proof

open Machine

/-- R26 items 1 to 5, as they read of one state alone. Item 4's "after at least one step since the last
seeding" is a matter of history; `PREV` is zero after every seeding, so a `PREV` that is not zero shows
that a step has happened. -/
structure Inv (s : State) : Prop where
  /-- Item 1: `SEEDED = 1` implies `CONFIGURED = 1`. -/
  seeded_configured : s.seeded = true → s.configured = true
  /-- Item 2: `CONFIGURED = 0` implies `SB = 0`, `Z = 0`, `PREV = 0`, `CAUX = 0`. -/
  unconfigured_clear : s.configured = false →
    s.sb = 0 ∧ wordsValue s.z = 0 ∧ wordsValue s.prev = 0 ∧ wordsValue s.caux = 0
  /-- Item 3: `CONFIGURED = 1` implies `160 <= SB <= 512`. -/
  sb_range : s.configured = true → 160 ≤ s.sb.toNat ∧ s.sb.toNat ≤ 512
  /-- Item 4, first half: `CONFIGURED = 1` implies `Z < 2^SB`. -/
  z_range : s.configured = true → wordsValue s.z < 2 ^ s.sb.toNat
  /-- Item 4, second half: a step has happened since the last seeding, so `Z < M`. -/
  z_stepped : s.configured = true → wordsValue s.prev ≠ 0 → wordsValue s.z < 2 ^ s.sb.toNat - 1
  /-- Item 5: `SEEDED = 0` implies `Z = 0` and `PREV = 0`. -/
  unseeded_clear : s.seeded = false → wordsValue s.z = 0 ∧ wordsValue s.prev = 0

/-- R26 item 6 with R81, R83 and R84: `PREV = 0`, or a generator is configured and its last step took a
candidate `zc` below `M` and a previous output `q`: `PREV` is the digest of `zc` under the latched
auxiliary word, and `Z` is the sum that step left. -/
def PrevIsDigest (s : State) : Prop :=
  wordsValue s.prev = 0 ∨
    (s.configured = true ∧ ∃ (zc : Nat) (q : Words 5), zc < 2 ^ s.sb.toNat - 1 ∧
      s.prev = gDigest s.build.ivFromAux s.caux (beBytes zc (serialLength s.sb)) ∧
      wordsValue s.z = (1 + zc + wordsValue q) % (2 ^ s.sb.toNat - 1))

/-- A result followed by more work; a stop stays a stop. -/
def andThen (r : Result) (f : State → Result) : Result :=
  match r with
  | .next t => f t
  | .fault x => .fault x
  | .refused x => .refused x

/-- Commands performed one after the other. -/
def execAll (is : List Instr) (s : State) : Result :=
  is.foldl (fun r i => andThen r (exec i)) (.next s)

/-- A run (spec/70_reset_and_hazards.md R139): a finite sequence of accesses, performed to the last one. -/
def runAccesses (l : List Access) (s : State) : Result :=
  Host.Core.run Sys2Proof.core l.length (s.setPending l)

/-- A safe step answers a next state: the access was performed, not refused. -/
def SafeStep (s : State) : Prop := ∃ t, step s = .next t

end Sys2Proof
end

