-- ==== Sys2Proof/Certificates/Slice0/Obligations.lean ====
section
/-! DEFINITION. The statements for the provers, from the numbered rules of spec/. -/

open Sys2Proof Sys2Proof.Machine

/-! ### Encoding -/

/-- R45, R46, R47: every command is read back from its word, whatever its immediate. -/
def Obligations.DecodeEncodeRoundTrip : Prop :=
  ∀ i : Instr, i.WF → decode (encode i) = .ok i

/-- R45, R46: a word decodes to one command only, the command whose word it is; the word matches that
command's row, and the command is well-formed. -/
def Obligations.DecodedWordIsItsEncoding : Prop :=
  ∀ (w : Word) (i : Instr), decode w = .ok i →
    encode i = w ∧ i.WF ∧ w &&& i.row.2 = i.row.1

/-- R48: a word is reserved iff one of the three clauses holds of it; written to `CMD` it raises
BadCommand and changes nothing else while `ERR = 0`, and does nothing while `ERR != 0`. -/
def Obligations.ReservedEncodings : Prop :=
  ∀ w : Word,
    ((∃ r, decode w = .error r) ↔
      (8 ≤ w.toNat / 2 ^ 24 ∨
        (w.toNat / 2 ^ 24 ∈ [0, 2, 3, 6, 7] ∧ w.toNat % 2 ^ 24 ≠ 0) ∨ w = 0x04000000)) ∧
    ((∃ r, decode w = .error r) → ∀ s : State,
      (s.err = .none → performCommand w s = .next { s with err := .badCommand }) ∧
      (s.err ≠ .none → performCommand w s = .next s))

/-- spec/95_test_vectors.md section 5: sample words, one for each command, and reserved ones. -/
def Obligations.SampleWordsDecode : Prop :=
  decode 0x00000000 = .ok .nop ∧ decode 0x010000a0 = .ok (.cfg 160) ∧ decode 0x02000000 = .ok .seed ∧
  decode 0x03000000 = .ok .seedrnd ∧ decode 0x04000001 = .ok (.gen 1) ∧
  decode 0x04ffffff = .ok (.gen 16777215) ∧ decode 0x05000040 = .ok (.compress 64) ∧
  decode 0x06000000 = .ok .clrerr ∧ decode 0x07000000 = .ok .reset ∧
  decode 0x04000000 = .error .genZero ∧ decode 0x02000001 = .error (.immediate 2) ∧
  decode 0xff000000 = .error (.opcode 0xff)

/-! ### Steps and commands -/

/-- R34, R42, R49: when the next event is a write to `CMD` of a word that decodes to `i`, the step is `exec`
of `i` on the state without that event. -/
def Obligations.StepRunsDecodedCommand : Prop :=
  ∀ (s : State) (w : Word) (rest : List Access) (i : Instr), s.build.wf →
    s.pending = .write s.build.base 4 w :: rest → decode w = .ok i →
    step s = exec i { s with pending := rest }

/-- R42, R121: events are performed in order, one at a time; with none the block waits. The list of
events is the model's (log 3). -/
def Obligations.StepPerformsNextEvent : Prop :=
  ∀ s : State, (s.pending = [] → step s = .next s) ∧
    ∀ a rest, s.pending = a :: rest → step s = performAccess a { s with pending := rest }

/-- The model's placing of a command (log 3): the next step performs that command on the same state. -/
def Obligations.PlacedCommandRunsNext : Prop :=
  ∀ (s : State) (w : Nat), s.build.wf → w < 2 ^ 32 →
    step (s.withFetchWord 32 w) = performCommand (BitVec.ofNat 32 w) s

/-- R49: the effect of `MemWrite(BASE + 0x000, 4, w)`, for every word and state. -/
def Obligations.CommandDispatch : Prop :=
  ∀ (w : Word) (s : State), s.build.wf →
    performWrite (s.build.base + 0x000) 4 w s =
      if s.err ≠ .none then
        if w = 0x06000000 then .next { s with err := .none }
        else if w = 0x07000000 then .next s.resetRegisters
        else .next s
      else match decode w with
        | .error _ => .next { s with err := .badCommand }
        | .ok i => exec i s

/-- R138: every command terminates, in every state, with a next state. -/
def Obligations.EveryCommandCompletes : Prop :=
  ∀ (i : Instr) (s : State), ∃ t, exec i s = .next t

/-! ### The register window -/

/-- R31: the offsets of the map, and the directions of each register. -/
def Obligations.RegisterMap : Prop :=
  (∀ (off : Nat) (r : Reg), regAt off = some r ↔
    match r with
    | .cmd => off = 0x000
    | .status => off = 0x004
    | .sb => off = 0x008
    | .aux j => off = 0x010 + 4 * j.val
    | .caux j => off = 0x030 + 4 * j.val
    | .prev j => off = 0x050 + 4 * j.val
    | .digest j => off = 0x070 + 4 * j.val
    | .din j => off = 0x100 + 4 * j.val
    | .z j => off = 0x140 + 4 * j.val) ∧
  (∀ (s : State) (r : Reg), (∃ v, readReg s r = some v) ↔ r ≠ .cmd) ∧
  (∀ (s : State) (r : Reg) (v : Word), (∃ t, writeReg r v s = .next t) ↔
    (r = .cmd ∨ (∃ j, r = .aux j) ∨ ∃ j, r = .din j))

/-- R35: the refused reads and writes, exactly. -/
def Obligations.RefusedAccesses : Prop :=
  ∀ (s : State) (addr size : Nat) (v : Word), s.build.wf →
    let off := addr - s.build.base
    let outside := addr < s.build.base ∨ 0x17C < off
    let reserved := off = 0x00C ∨ (0x024 ≤ off ∧ off ≤ 0x02C) ∨ (0x044 ≤ off ∧ off ≤ 0x04C) ∨
      (0x064 ≤ off ∧ off ≤ 0x06C) ∨ (0x084 ≤ off ∧ off ≤ 0x0FC)
    let bad := size ≠ 4 ∨ addr % 4 ≠ 0 ∨ outside ∨ reserved
    let writable := off = 0x000 ∨ (0x010 ≤ off ∧ off ≤ 0x020) ∨ (0x100 ≤ off ∧ off ≤ 0x13C)
    ((∃ ρ, performRead addr size s = .refused ρ) ↔ (bad ∨ off = 0x000)) ∧
    ((∃ ρ, performWrite addr size v s = .refused ρ) ↔ (bad ∨ ¬writable))

/-- R33: a read of a readable offset returns the current value of its register and changes no state of
the block; a second read returns the same value. -/
def Obligations.ReadReturnsRegister : Prop :=
  ∀ (s : State) (r : Reg), s.build.wf → r ≠ .cmd →
    let v : Word := match r with
      | .cmd => 0
      | .status => statusWord s
      | .sb => s.sb.setWidth 32
      | .aux j => s.aux[j]
      | .caux j => s.caux[j]
      | .prev j => s.prev[j]
      | .digest j => s.digest[j]
      | .din j => s.din[j]
      | .z j => s.z[j]
    performRead (s.build.base + r.offset) 4 s = .next { s with answers := s.answers ++ [v] } ∧
    andThen (performRead (s.build.base + r.offset) 4 s) (performRead (s.build.base + r.offset) 4)
      = .next { s with answers := s.answers ++ [v, v] }

/-- R34: writes to `AUX[j]` and `DIN[j]` set that register and nothing else and are idempotent; a write to
`CMD` performs the command. -/
def Obligations.WindowWrites : Prop :=
  ∀ (s : State) (v : Word), s.build.wf →
    (∀ j : Fin 5,
      performWrite (s.build.base + (0x010 + 4 * j.val)) 4 v s = .next { s with aux := s.aux.set j v } ∧
      andThen (performWrite (s.build.base + (0x010 + 4 * j.val)) 4 v s)
          (performWrite (s.build.base + (0x010 + 4 * j.val)) 4 v)
        = performWrite (s.build.base + (0x010 + 4 * j.val)) 4 v s) ∧
    (∀ j : Fin 16,
      performWrite (s.build.base + (0x100 + 4 * j.val)) 4 v s = .next { s with din := s.din.set j v } ∧
      andThen (performWrite (s.build.base + (0x100 + 4 * j.val)) 4 v s)
          (performWrite (s.build.base + (0x100 + 4 * j.val)) 4 v)
        = performWrite (s.build.base + (0x100 + 4 * j.val)) 4 v s) ∧
    performWrite s.build.base 4 v s = performCommand v s

/-- R31, R34: after a staging write the written register reads as the value written, and every other
register of the window reads as before. -/
def Obligations.StagingWriteFrame : Prop :=
  ∀ (s t : State) (r r' : Reg) (v : Word), ((∃ j, r = .aux j) ∨ ∃ j, r = .din j) →
    writeReg r v s = .next t →
    readReg t r = some v ∧ (r' ≠ r → readReg t r' = readReg s r')

/-- R17: the fields of `STATUS`, and its reserved bits. -/
def Obligations.StatusLayout : Prop :=
  ∀ s : State,
    (statusWord s).getLsbD 0 = s.configured ∧ (statusWord s).getLsbD 1 = s.seeded ∧
    (statusWord s).extractLsb' 2 2 = 0 ∧ (statusWord s).extractLsb' 4 4 = s.err.code ∧
    (statusWord s).getLsbD 8 = s.build.ivFromAux ∧ (statusWord s).extractLsb' 9 23 = 0

/-- R39: element 0 of an array register is the most significant word of its value, and the value
determines the words. -/
def Obligations.ArrayValueBigEndian : Prop :=
  ∀ (n : Nat) (ws : Words n),
    wordsValue ws = ∑ j : Fin n, ws[j].toNat * 2 ^ (32 * (n - 1 - j.val)) ∧
    ∀ v < 2 ^ (32 * n), wordsValue (valueWords n v) = v ∧
      ∀ ws' : Words n, wordsValue ws' = v → ws' = valueWords n v

/-- R38: byte `k` of `DIN` as a block of bytes. -/
def Obligations.DinBytesLeftAligned : Prop :=
  ∀ (s : State) (k : Fin 64),
    (dinBytes s)[k.val]? =
      some (s.din[k.val / 4].extractLsb' (24 - 8 * (k.val % 4)) 8) ∧
    ∀ len ≤ 64, (dinBlock s len).length = len ∧
      (k.val < len → (dinBlock s len)[k.val]? = (dinBytes s)[k.val]?)

/-! ### The compression function -/

/-- R68: G equals the rule's pseudocode, read with `p` and `W` as functions of an index and the loop as
sixteen iterations on a tuple; a longer block raises InvalidInputLength. -/
def Obligations.CompressionFunction : Prop :=
  ∀ (ivFromAux : Bool) (aux : Words 5) (block : List Byte),
    let p : Nat → Byte := fun k => if k < block.length then block.getD k 0 else 0
    let W : Nat → Word := fun i =>
      BitVec.ofNat 32 ((p (4 * i)).toNat * 2 ^ 24 + (p (4 * i + 1)).toNat * 2 ^ 16
        + (p (4 * i + 2)).toNat * 2 ^ 8 + (p (4 * i + 3)).toNat)
    let iv : Words 5 := if ivFromAux then aux
      else #v[0x67452301, 0xEFCDAB89, 0x98BADCFE, 0x10325476, 0xC3D2E1F0]
    let step : Word × Word × Word × Word × Word → Nat → Word × Word × Word × Word × Word :=
      fun (a, b, c, d, e) i =>
        (((a <<< 5) ||| (a >>> 27)) + ((b &&& c) ||| (~~~b &&& d)) + e + 0x5A827999 + W i,
          a, (b <<< 30) ||| (b >>> 2), c, d)
    let (a, b, c, d, e) := (List.range 16).foldl step (iv[0], iv[1], iv[2], iv[3], iv[4])
    compressG ivFromAux aux block =
      if 64 < block.length then .error .invalidInputLength
      else .ok #v[a + iv[0], b + iv[1], c + iv[2], d + iv[3], e + iv[4]]

/-- R71: the arithmetic of a step as unsigned integers: the two rotations, the selection bit by bit, its
`|` equal to `+` and to exclusive-or, and the sum reduced once. -/
def Obligations.StepArithmetic : Prop :=
  ∀ (r : WorkRegs) (w : Word),
    (rotl32 r.a 5).toNat = r.a.toNat * 32 % 2 ^ 32 + r.a.toNat / 2 ^ 27 ∧
    (rotl32 r.b 30).toNat = r.b.toNat * 2 ^ 30 % 2 ^ 32 + r.b.toNat / 4 ∧
    (∀ j < 32, (gSelect r.b r.c r.d).getLsbD j =
      if r.b.getLsbD j then r.c.getLsbD j else r.d.getLsbD j) ∧
    gSelect r.b r.c r.d = (r.b &&& r.c) + (~~~r.b &&& r.d) ∧
    gSelect r.b r.c r.d = (r.b &&& r.c) ^^^ (~~~r.b &&& r.d) ∧
    (gStep r w).a.toNat =
      ((rotl32 r.a 5).toNat + (gSelect r.b r.c r.d).toNat + r.e.toNat + 0x5A827999 + w.toNat) % 2 ^ 32

/-- R70 item 4: one step is a bijection on the working registers for a fixed word. -/
def Obligations.GStepInvertible : Prop :=
  ∀ (r : WorkRegs) (w : Word), let q := gStep r w
    r.a = q.b ∧ r.b = rotl32 q.c 2 ∧ r.c = q.d ∧ r.d = q.e ∧
    r.e = q.a - rotl32 r.a 5 - gSelect r.b r.c r.d - 0x5A827999 - w

/-- R70 item 4: for a fixed auxiliary word, two padded blocks that differ in exactly one word give
different digests. -/
def Obligations.OneWordChangesDigest : Prop :=
  ∀ (ivFromAux : Bool) (aux : Words 5) (x y : List Byte) (i : Nat),
    x.length ≤ 64 → y.length ≤ 64 → i < 16 →
    (blockWords (padBlock x))[i]? ≠ (blockWords (padBlock y))[i]? →
    (∀ j, j ≠ i → (blockWords (padBlock x))[j]? = (blockWords (padBlock y))[j]?) →
    gDigest ivFromAux aux x ≠ gDigest ivFromAux aux y

/-- R70 item 3: trailing zero bytes do not matter. -/
def Obligations.TrailingZerosIgnored : Prop :=
  ∀ (ivFromAux : Bool) (aux : Words 5) (block : List Byte) (k : Nat), block.length + k ≤ 64 →
    compressG ivFromAux aux (block ++ List.replicate k 0) = compressG ivFromAux aux block

/-- R86: the bits a step contributes are bits 159 down to 0 of the digest's value. -/
def Obligations.DigestBitsMsbFirst : Prop :=
  ∀ d : Words 5, (digestBits d).length = 160 ∧
    ∀ k < 160, (digestBits d)[k]? = some ((wordsValue d).testBit (159 - k))

/-! ### Results of the commands -/

/-- R95: NOP leaves every state as it is, a fault pending or not. -/
def Obligations.NopChangesNothing : Prop :=
  encode .nop = 0x00000000 ∧ ∀ s : State, exec .nop s = .next s

/-- R76, R75: CFG in any state with no fault pending. -/
def Obligations.CfgConstructs : Prop :=
  ∀ (s : State) (n : Imm), s.err = .none →
    exec (.cfg n) s =
      (if n.toNat < 160 ∨ 512 < n.toNat then .next { s with err := .validation }
      else .next { s with
        sb := n.setWidth 10, caux := s.aux, z := Vector.replicate 16 0, prev := Vector.replicate 5 0,
        configured := true, seeded := false }) ∧
    encode (.cfg n) = 0x01000000 ||| n.setWidth 32 ∧
    (160 ≤ n.toNat → n.toNat ≤ 512 → (n.setWidth 10 : BitVec 10).toNat = n.toNat)

/-- R78: SEED in any state with no fault pending; with `SB = 512` no seed is too large. -/
def Obligations.SeedLoadsDin : Prop :=
  ∀ s : State, s.err = .none →
    exec .seed s =
      (if s.configured = false then .next { s with err := .sequence }
      else if 2 ^ s.sb.toNat ≤ wordsValue s.din then .next { s with err := .seedRange }
      else .next { s with z := s.din, prev := Vector.replicate 5 0, seeded := true }) ∧
    encode .seed = 0x02000000 ∧ (s.sb = 512 → wordsValue s.din < 2 ^ s.sb.toNat)

/-- R80: SEEDRND in any state with no fault pending: some `SB`-bit value is loaded. The counter of draws
is the model's (log 2). -/
def Obligations.SeedrndLoadsDraw : Prop :=
  encode .seedrnd = 0x03000000 ∧ ∀ s : State, s.err = .none →
    (s.configured = false → exec .seedrnd s = .next { s with err := .sequence }) ∧
    (s.configured = true → s.sb.toNat ≤ 512 → ∃ (v : Nat) (d : Nat), v < 2 ^ s.sb.toNat ∧
      exec .seedrnd s = .next { s with
        z := valueWords 16 v, prev := Vector.replicate 5 0, seeded := true, draws := d } ∧
      wordsValue (valueWords 16 v) = v)

/-- R80 with the model's free value named (log 2): SEEDRND loads the draw whose index is the count of
draws so far, and counts it; two draws of one run never share an index. -/
def Obligations.SeedrndTakesFreshDraw : Prop :=
  ∀ s : State, s.err = .none → s.configured = true → s.sb.toNat ≤ 512 →
    ∃ t, exec .seedrnd s = .next t ∧ t.draws = s.draws + 1 ∧
      wordsValue t.z = (Config.entropyDraw s.draws s.sb.toNat).toNat

/-- R87, R88: GEN in any state with no fault pending: `ceil(count/160)` steps, and the first `count` bits
of their digests in order; the tail of the last digest is discarded. -/
def Obligations.GenEmitsDigestStream : Prop :=
  ∀ (s : State) (c : Imm), s.err = .none → c ≠ 0 →
    let n := (c.toNat + 159) / 160
    exec (.gen c) s =
      (if s.configured = true ∧ s.seeded = true then
        .next { genStep^[n] s with
          out := s.out ++
            ((List.range n).flatMap fun k => digestBits (stepDigest (genStep^[k] s))).take c.toNat }
      else .next { s with err := .sequence }) ∧
    encode (.gen c) = 0x04000000 ||| c.setWidth 32

/-- R85: one step of the generator, for a legal seed size: `zc = Z mod M`, the big-endian bytes of `zc`,
their digest, the next `Z` and `PREV`, and nothing else written. -/
def Obligations.GeneratorStep : Prop :=
  ∀ s : State, 160 ≤ s.sb.toNat → s.sb.toNat ≤ 512 →
    ∃ (blk : List Byte) (dg : Words 5),
      blk.length = (s.sb.toNat + 7) / 8 ∧
      beInt blk = wordsValue s.z % (2 ^ s.sb.toNat - 1) ∧
      compressG s.build.ivFromAux s.caux blk = .ok dg ∧
      stepDigest s = dg ∧
      genStep s = { s with z := (genStep s).z, prev := dg } ∧
      wordsValue (genStep s).z =
        (1 + wordsValue s.z % (2 ^ s.sb.toNat - 1) + wordsValue s.prev) % (2 ^ s.sb.toNat - 1)

/-- R82: the candidate is 0 if `Z = M`, else `Z`, and it is below `M`. -/
def Obligations.CandidateReduction : Prop :=
  ∀ s : State, 160 ≤ s.sb.toNat → wordsValue s.z < 2 ^ s.sb.toNat →
    zCandidate s = (if wordsValue s.z = 2 ^ s.sb.toNat - 1 then 0 else wordsValue s.z) ∧
    zCandidate s < 2 ^ s.sb.toNat - 1

/-- R81: the serialised candidate has `ceil(SB/8)` bytes, 20 to 64, big-endian, and the top `8L - SB` bits
of byte 0 are zero. -/
def Obligations.CandidateSerialised : Prop :=
  ∀ s : State, 160 ≤ s.sb.toNat → s.sb.toNat ≤ 512 →
    let L := (s.sb.toNat + 7) / 8
    (serializedZ s).length = L ∧ 20 ≤ L ∧ L ≤ 64 ∧ beInt (serializedZ s) = zCandidate s ∧
    ∀ b, (serializedZ s)[0]? = some b → b.toNat < 2 ^ (8 - (8 * L - s.sb.toNat))

/-- R92: the bounds of the sum before reduction. -/
def Obligations.SumBounds : Prop :=
  ∀ s : State, 160 ≤ s.sb.toNat →
    let M := 2 ^ s.sb.toNat - 1
    let sum := 1 + zCandidate s + wordsValue s.prev
    sum ≤ M + 2 ^ 160 - 1 ∧ (160 < s.sb.toNat → sum < 2 * M) ∧ (s.sb.toNat = 160 → sum ≤ 2 * M) ∧
    (sum = 2 * M → zCandidate s = M - 1 ∧ wordsValue s.prev = M) ∧
    (sum = M → nextZ s = 0) ∧ (sum = 2 * M → nextZ s = 0) ∧ 0 < M

/-- R69: COMPRESS in any state with no fault pending. -/
def Obligations.CompressWritesDigest : Prop :=
  ∀ (s : State) (n : Imm), s.err = .none →
    (n.toNat ≤ 64 → ∃ d, compressG s.build.ivFromAux s.aux ((dinBytes s).take n.toNat) = .ok d ∧
      exec (.compress n) s = .next { s with digest := d }) ∧
    (64 < n.toNat → exec (.compress n) s = .next { s with err := .invalidInputLength }) ∧
    encode (.compress n) = 0x05000000 ||| n.setWidth 32

/-- R96: CLRERR, whatever `ERR` holds. -/
def Obligations.ClrerrClears : Prop :=
  encode .clrerr = 0x06000000 ∧ ∀ s : State, exec .clrerr s = .next { s with err := .none }

/-- R97: RESET, whatever `ERR` holds. -/
def Obligations.ResetCommand : Prop :=
  encode .reset = 0x07000000 ∧ ∀ s : State, exec .reset s = .next { s with
    aux := Vector.replicate 5 0, din := Vector.replicate 16 0, sb := 0, caux := Vector.replicate 5 0,
    z := Vector.replicate 16 0, prev := Vector.replicate 5 0, digest := Vector.replicate 5 0,
    configured := false, seeded := false, err := .none }

/-! ### Reset -/

/-- R28: the values after power-on, and after a hardware reset or a RESET command. -/
def Obligations.ResetValues : Prop :=
  let clear (s : State) : Prop :=
    wordsValue s.aux = 0 ∧ wordsValue s.din = 0 ∧ s.sb = 0 ∧ wordsValue s.caux = 0 ∧ wordsValue s.z = 0 ∧
    wordsValue s.prev = 0 ∧ wordsValue s.digest = 0 ∧ s.configured = false ∧ s.seeded = false ∧
    s.err = .none ∧ statusWord s = if s.build.ivFromAux then 0x00000100 else 0x00000000
  (clear State.reset ∧ State.reset.out = []) ∧
  ∀ s : State, ∃ t, performAccess .hardReset s = .next t ∧ exec .reset s = .next t ∧ clear t ∧
    t.out = s.out

/-- R122: a hardware reset inside any command: reset registers, `OUT` longer by some bits `p`; for a GEN
they are a prefix of the bits it would have emitted, for any other word there are none. Which prefix is
free, and so is the model's count of free values afterwards (log 5). -/
def Obligations.ResetDuringCommand : Prop :=
  ∀ (s : State) (w : Word), ∃ (p : List Bool) (d : Nat),
    performAccess (.hardResetDuring w) s =
      .next { s.resetRegisters with out := s.out ++ p, draws := d } ∧
    (∀ (c : Imm) (t : State), decode w = .ok (.gen c) → exec (.gen c) s = .next t →
      ∃ bits, t.out = s.out ++ bits ∧ p <+: bits) ∧
    ((∀ c, decode w ≠ .ok (.gen c)) → p = [])

/-- R123: `OUT` is empty at power-on and only ever grows. -/
def Obligations.OutOnlyGrows : Prop :=
  State.reset.out = [] ∧ ∀ s t : State, step s = .next t → s.out <+: t.out

/-! ### Faults -/

/-- R100: which command raises which code, and the codes. -/
def Obligations.ErrorCodes : Prop :=
  (∀ (i : Instr) (s t : State), i.WF → exec i s = .next t → t.err ≠ s.err →
    match t.err with
    | .none => i = .clrerr ∨ i = .reset
    | .validation => ∃ n, i = .cfg n
    | .invalidInputLength => ∃ n, i = .compress n
    | .sequence => i = .seed ∨ i = .seedrnd ∨ ∃ c, i = .gen c
    | .badCommand => False
    | .seedRange => i = .seed) ∧
  (∀ (w : Word) (s t : State), performCommand w s = .next t → t.err = .badCommand → s.err ≠ .badCommand →
    ∃ r, decode w = .error r) ∧
  ErrCode.code .none = 0 ∧ ErrCode.code .validation = 1 ∧ ErrCode.code .invalidInputLength = 2 ∧
  ErrCode.code .sequence = 3 ∧ ErrCode.code .badCommand = 4 ∧ ErrCode.code .seedRange = 5

/-- R103: the spec's own faults, with no fault pending: Sequence, BadCommand, SeedRange. -/
def Obligations.OwnFaults : Prop :=
  ∀ s : State, s.err = .none →
    (s.configured = false → performCommand 0x02000000 s = .next { s with err := .sequence }) ∧
    (s.configured = false → performCommand 0x03000000 s = .next { s with err := .sequence }) ∧
    (∀ w c, decode w = .ok (.gen c) → s.configured = false ∨ s.seeded = false →
      performCommand w s = .next { s with err := .sequence }) ∧
    (∀ w r, decode w = .error r → performCommand w s = .next { s with err := .badCommand }) ∧
    performCommand 0x04000000 s = .next { s with err := .badCommand } ∧
    (s.configured = true → 2 ^ s.sb.toNat ≤ wordsValue s.din →
      performCommand 0x02000000 s = .next { s with err := .seedRange })

/-- R104: a command that leaves a new fault code has written `ERR` and nothing else. -/
def Obligations.FaultWritesOnlyErr : Prop :=
  ∀ (w : Word) (s t : State), performCommand w s = .next t → t.err ≠ .none → t.err ≠ s.err →
    t = { s with err := t.err }

/-- R106: while a fault is pending only CLRERR and RESET act; reads, and writes to `AUX` and `DIN`, are
performed as usual. -/
def Obligations.FaultsAreSticky : Prop :=
  ∀ s : State, s.err ≠ .none →
    (∀ w : Word, w ≠ 0x06000000 → w ≠ 0x07000000 → performCommand w s = .next s) ∧
    performCommand 0x06000000 s = .next { s with err := .none } ∧
    performCommand 0x07000000 s = .next s.resetRegisters ∧
    (s.build.wf →
      (∀ r v, readReg s r = some v →
        performRead (s.build.base + r.offset) 4 s = .next { s with answers := s.answers ++ [v] }) ∧
      (∀ j v, performWrite (s.build.base + Reg.offset (.aux j)) 4 v s =
        .next { s with aux := s.aux.set j v }) ∧
      (∀ j v, performWrite (s.build.base + Reg.offset (.din j)) 4 v s =
        .next { s with din := s.din.set j v }))

/-- R107: the order of the checks; the first that fails decides. -/
def Obligations.FaultPriority : Prop :=
  ∀ (w : Word) (s : State),
    let missing (i : Instr) : Prop := match i with
      | .seed | .seedrnd => s.configured = false
      | .gen _ => s.configured = false ∨ s.seeded = false
      | _ => False
    let outOfRange (i : Instr) (c : ErrCode) : Prop := match i with
      | .cfg n => (n.toNat < 160 ∨ 512 < n.toNat) ∧ c = .validation
      | .compress n => 64 < n.toNat ∧ c = .invalidInputLength
      | .seed => 2 ^ s.sb.toNat ≤ wordsValue s.din ∧ c = .seedRange
      | _ => False
    (s.err ≠ .none → w ≠ 0x06000000 → w ≠ 0x07000000 → performCommand w s = .next s) ∧
    (s.err = .none → ∀ r, decode w = .error r →
      performCommand w s = .next { s with err := .badCommand }) ∧
    (s.err = .none → ∀ i, decode w = .ok i → missing i →
      performCommand w s = .next { s with err := .sequence }) ∧
    (s.err = .none → ∀ i c, decode w = .ok i → ¬missing i → outOfRange i c →
      performCommand w s = .next { s with err := c }) ∧
    (s.err = .none → ∀ i t, decode w = .ok i → ¬missing i → (∀ c, ¬outOfRange i c) →
      performCommand w s = .next t → t.err = .none)

/-- R108: after a fault, CLRERR brings back the state the faulting command found. -/
def Obligations.ClrerrUndoesFault : Prop :=
  ∀ (w : Word) (s t : State), s.err = .none → performCommand w s = .next t → t.err ≠ .none →
    exec .clrerr t = .next s

/-- R109: faults do not nest: a pending code is kept or cleared, never replaced. -/
def Obligations.FaultsDoNotNest : Prop :=
  ∀ (w : Word) (s t : State), s.err ≠ .none → performCommand w s = .next t →
    t.err = s.err ∨ t.err = .none

/-! ### Frames -/

/-- R90, and the "Writes" line of every command: what each command leaves alone, in every state, whether
it acts, faults or is dropped. -/
def Obligations.CommandFrames : Prop :=
  ∀ (i : Instr) (s t : State), exec i s = .next t →
    t.build = s.build ∧ t.pending = s.pending ∧ t.answers = s.answers ∧
    (i ≠ .reset → t.aux = s.aux ∧ t.din = s.din) ∧
    (i ≠ .reset → (∀ n, i ≠ .compress n) → t.digest = s.digest) ∧
    (i ≠ .reset → (∀ n, i ≠ .cfg n) → t.sb = s.sb ∧ t.caux = s.caux ∧ t.configured = s.configured) ∧
    (i ≠ .reset → (∀ n, i ≠ .cfg n) → i ≠ .seed → i ≠ .seedrnd →
      t.seeded = s.seeded ∧ ((∀ c, i ≠ .gen c) → t.z = s.z ∧ t.prev = s.prev)) ∧
    ((∀ c, i ≠ .gen c) → t.out = s.out) ∧ (i ≠ .seedrnd → t.draws = s.draws)

/-- R90, and the "Writes" line of every command: the registers of the window a command does not write read
after it as before. -/
def Obligations.WindowFrames : Prop :=
  ∀ (i : Instr) (s t : State) (r : Reg), exec i s = .next t → r ≠ .status → r ≠ .cmd →
    (match i, r with
      | .reset, _ => False
      | .cfg _, .sb | .cfg _, .caux _ | .cfg _, .z _ | .cfg _, .prev _ => False
      | .seed, .z _ | .seed, .prev _ => False
      | .seedrnd, .z _ | .seedrnd, .prev _ => False
      | .gen _, .z _ | .gen _, .prev _ => False
      | .compress _, .digest _ => False
      | _, _ => True) →
    readReg t r = readReg s r

/-- R4, R17: no step changes the build parameters, so `IVAUX` is constant for a given part. -/
def Obligations.BuildIsConstant : Prop :=
  ∀ s t : State, step s = .next t → t.build = s.build

/-! ### Properties of the generator -/

/-- R89: a GEN whose count is a multiple of 160, and then another, emit what one GEN of the sum emits and
leave the same state. -/
def Obligations.GenContinues : Prop :=
  ∀ (s : State) (a c : Imm), s.err = .none → s.configured = true → s.seeded = true →
    a ≠ 0 → c ≠ 0 → a.toNat % 160 = 0 → a.toNat + c.toNat < 2 ^ 24 →
    andThen (exec (.gen a) s) (exec (.gen c)) = exec (.gen (a + c)) s

/-- R58: GEN commands whose counts are a valid split of any count, below or above `2^24`, do what one
unbounded `generate(count)` does; the split the driver makes, whose piece size is the model's choice
(log 10), is valid for every positive count. -/
def Obligations.SplitCounts : Prop :=
  (∀ (s : State) (count : Nat) (cs : List Nat), s.err = .none → s.configured = true →
    s.seeded = true → ValidSplit count cs →
    execAll (cs.map fun c => .gen (BitVec.ofNat 24 c)) s = .next (generate count s)) ∧
  ∀ count : Nat, 1 ≤ count → ValidSplit count (splitCount count)

/-- R91 items 1 and 2: GEN appends exactly `count` bits, and after it `Z < M`. -/
def Obligations.GenCountAndRange : Prop :=
  ∀ (s : State) (c : Imm), s.err = .none → s.configured = true → s.seeded = true → c ≠ 0 →
    160 ≤ s.sb.toNat → s.sb.toNat ≤ 512 →
    ∃ (t : State) (bits : List Bool), exec (.gen c) s = .next t ∧ t.out = s.out ++ bits ∧
      bits.length = c.toNat ∧ wordsValue t.z < 2 ^ s.sb.toNat - 1

/-- R91 item 5, R136: seeds 0 and `M` give identical streams. -/
def Obligations.ZeroAndModulusCollide : Prop :=
  ∀ (s : State) (c : Imm), 160 ≤ s.sb.toNat → s.sb.toNat ≤ 512 → s.err = .none → s.configured = true →
    s.seeded = true → c ≠ 0 →
    exec (.gen c) { s with z := valueWords 16 0 } =
      exec (.gen c) { s with z := valueWords 16 (2 ^ s.sb.toNat - 1) }

/-- R93: `ldaux h ; cfg b ; ldseed v ; seed` and then a fixed list of GENs appends the same bits from every
state with no fault pending, on every block built with the same `IV_FROM_AUX`, whatever the operands; when
they are valid the stream has the requested number of bits and no fault is left. -/
def Obligations.Reproducibility : Prop :=
  ∀ (iv : Bool) (h : BitVec 160) (b : Imm) (v : BitVec 512) (cs : List Imm),
    ∃ bits : List Bool,
      (∀ s : State, s.build.wf → s.build.ivFromAux = iv → s.err = .none →
        ∃ t, runAccesses (expandProgram s.build ([.ldaux h, .command (.cfg b), .ldseed v, .command .seed]
            ++ cs.map fun c => .command (.gen c))) s = .next t ∧
          t.out = s.out ++ bits ∧
          (160 ≤ b.toNat → b.toNat ≤ 512 → v.toNat < 2 ^ b.toNat → (∀ c ∈ cs, c ≠ 0) →
            t.err = .none)) ∧
      (160 ≤ b.toNat → b.toNat ≤ 512 → v.toNat < 2 ^ b.toNat → (∀ c ∈ cs, c ≠ 0) →
        bits.length = (cs.map BitVec.toNat).sum)

/-! ### Invariants -/

/-- R26: the invariant holds at reset, and `PREV` is zero there. -/
def Obligations.InvariantAtReset : Prop :=
  Inv State.reset ∧ PrevIsDigest State.reset

/-- R26 items 1 to 5, in the form they have over one state: every step keeps the invariant. -/
def Obligations.InvariantKept : Prop :=
  ∀ s t : State, Inv s → step s = .next t → Inv t

/-- R26 item 6, with the step that made `PREV` (R84): every step keeps "`PREV` is 0, or the digest of a
candidate below `M` under `CAUX`, and `Z` is that step's sum". -/
def Obligations.PrevStaysDigest : Prop :=
  ∀ s t : State, Inv s → PrevIsDigest s → step s = .next t → PrevIsDigest t

/-! ### The host's side -/

/-- R53: what the pseudo-instructions leave in the staging registers. -/
def Obligations.PseudoInstructions : Prop :=
  ∀ s : State, s.build.wf → s.pending = [] →
    (∀ h : BitVec 160, runAccesses (ldaux s.build h) s = .next { s with aux := valueWords 5 h.toNat }) ∧
    (∀ v : BitVec 512, runAccesses (ldseed s.build v) s = .next { s with din := valueWords 16 v.toNat }) ∧
    (∀ p : List Byte, p.length ≤ 64 → ∃ t, runAccesses (ldblk s.build p) s = .next t ∧
      t = { s with din := t.din } ∧ dinBytes t = p ++ List.replicate (64 - p.length) 0) ∧
    stepCommand s.build = .write s.build.base 4 0x040000a0

/-- R55: hex text to auxiliary word. -/
def Obligations.AuxText : Prop :=
  (∀ c : Char, isSpace c = true ↔ c.toNat ∈ [9, 10, 11, 12, 13, 32]) ∧
  (∀ c : Char, (∃ v, hexDigit c = some v) ↔
    ('0' ≤ c ∧ c ≤ '9') ∨ ('a' ≤ c ∧ c ≤ 'f') ∨ ('A' ≤ c ∧ c ≤ 'F')) ∧
  (∀ v < 10, hexDigit (Char.ofNat ('0'.toNat + v)) = some v) ∧
  (∀ v < 6, hexDigit (Char.ofNat ('a'.toNat + v)) = some (10 + v) ∧
    hexDigit (Char.ofNat ('A'.toNat + v)) = some (10 + v)) ∧
  ∀ (text : List Char) (h : BitVec 160),
    let digits := text.filter fun c => !isSpace c
    (parseAux text = .ok h ↔
      digits.length = 40 ∧ ∀ d < 40, ∃ c, digits[d]? = some c ∧
        hexDigit c = some (h.extractLsb' (156 - 4 * d) 4).toNat) ∧
    ((∃ c ∈ digits, hexDigit c = none) → parseAux text = .error .validation) ∧
    (digits.length ≠ 40 → parseAux text = .error .validation)

/-- R59: `ldaux ; ldblk ; compress ; rd DIGEST[0..4]` returns G's digest to the host. -/
def Obligations.HostCompression : Prop :=
  ∀ (s : State) (aux : BitVec 160) (block : List Byte) (d : Words 5), s.build.wf → s.err = .none →
    compressG s.build.ivFromAux (valueWords 5 aux.toNat) block = .ok d →
    ∃ l t, hostG s.build aux block = .ok l ∧ runAccesses l s = .next t ∧
      t.answers = s.answers ++ d.toList
end

