-- ==== Sys2Proof/Laws/Operands.lean ====
section
/-! SUPPORT. The big-endian readings of Machine/Operands.lean and their inverses: what an array of words, a
byte string and the bits of a digest denote, said once. -/

namespace Sys2Proof.Machine

/-! ### Big-endian folds -/

/-- A big-endian fold over digits of radix `2 ^ k`, started at `acc`. -/
theorem foldl_digits_acc {α : Type} (val : α → Nat) (k : Nat) (l : List α) (acc : Nat) :
    l.foldl (fun a x => a * 2 ^ k + val x) acc
      = acc * 2 ^ (k * l.length) + l.foldl (fun a x => a * 2 ^ k + val x) 0 := by
  induction l generalizing acc with
  | nil => simp
  | cons x xs ih =>
    rw [List.foldl_cons, List.foldl_cons, ih, ih (0 * 2 ^ k + val x), List.length_cons,
      show k * (xs.length + 1) = k + k * xs.length by ring, pow_add]
    ring

theorem foldl_digits_lt {α : Type} (val : α → Nat) (k : Nat) (hval : ∀ x, val x < 2 ^ k) (l : List α) :
    l.foldl (fun a x => a * 2 ^ k + val x) 0 < 2 ^ (k * l.length) := by
  induction l with
  | nil => simp
  | cons x xs ih =>
    rw [List.foldl_cons, foldl_digits_acc, List.length_cons,
      show k * (xs.length + 1) = k + k * xs.length by ring, pow_add]
    have := Nat.mul_le_mul_right (2 ^ (k * xs.length)) (Nat.succ_le_of_lt (hval x))
    simp only [Nat.succ_mul, Nat.zero_mul, Nat.zero_add] at this ⊢
    omega

theorem foldl_digits_inj {α : Type} (val : α → Nat) (k : Nat) (hval : ∀ x, val x < 2 ^ k)
    (hinj : ∀ x y, val x = val y → x = y) {l m : List α} (hlen : l.length = m.length)
    (h : l.foldl (fun a x => a * 2 ^ k + val x) 0 = m.foldl (fun a x => a * 2 ^ k + val x) 0) :
    l = m := by
  induction l generalizing m with
  | nil => exact (List.length_eq_zero_iff.1 hlen.symm).symm
  | cons x xs ih =>
    obtain _ | ⟨y, ys⟩ := m
    · simp at hlen
    have hlen' : xs.length = ys.length := by simpa using hlen
    rw [List.foldl_cons, List.foldl_cons, foldl_digits_acc, foldl_digits_acc val k ys, hlen'] at h
    have hx := foldl_digits_lt val k hval xs
    have hy := foldl_digits_lt val k hval ys
    rw [hlen'] at hx
    have hpos : 0 < 2 ^ (k * ys.length) := Nat.two_pow_pos _
    have hdiv := congrArg (· / 2 ^ (k * ys.length)) h
    have hmod := congrArg (· % 2 ^ (k * ys.length)) h
    simp only [Nat.zero_mul, Nat.zero_add] at hdiv hmod
    rw [Nat.mul_comm (val x), Nat.mul_comm (val y), Nat.mul_add_div hpos, Nat.mul_add_div hpos,
      Nat.div_eq_of_lt hx, Nat.div_eq_of_lt hy] at hdiv
    rw [Nat.mul_comm (val x), Nat.mul_comm (val y), Nat.mul_add_mod, Nat.mul_add_mod,
      Nat.mod_eq_of_lt hx, Nat.mod_eq_of_lt hy] at hmod
    rw [hinj x y (by simpa using hdiv), ih hlen' hmod]

/-! ### Immediates and arrays of words (R47, R39) -/

@[simp] theorem zextImm_eq (imm : Imm) : zextImm imm = imm.toNat := rfl

theorem wordsValue_lt {n : Nat} (ws : Words n) : wordsValue ws < 2 ^ (32 * n) := by
  have h := foldl_digits_lt (fun w : Word => w.toNat) 32 (fun w => w.isLt) ws.toList
  rwa [Vector.length_toList] at h

theorem wordsValue_injective {n : Nat} {v w : Words n} (h : wordsValue v = wordsValue w) : v = w :=
  Vector.toList_inj.1 <| foldl_digits_inj (fun w : Word => w.toNat) 32 (fun w => w.isLt)
    (fun _ _ => BitVec.eq_of_toNat_eq) (by simp) h

theorem valueWords_succ_toList (n v : Nat) :
    (valueWords (n + 1) v).toList = BitVec.ofNat 32 (v >>> (32 * n)) :: (valueWords n v).toList := by
  simp only [valueWords, Vector.toList_ofFn, List.ofFn_succ]
  simp [Nat.sub_sub, Nat.add_comm]

/-- Writing an integer into `n` words and reading it back keeps its low `32 * n` bits. -/
theorem wordsValue_valueWords (n v : Nat) : wordsValue (valueWords n v) = v % 2 ^ (32 * n) := by
  induction n with
  | zero => rw [Nat.mul_zero, pow_zero, Nat.mod_one]; rfl
  | succ n ih =>
    simp only [wordsValue] at ih ⊢
    rw [valueWords_succ_toList, List.foldl_cons, foldl_digits_acc (fun w : Word => w.toNat) 32, ih]
    simp only [Nat.zero_mul, Nat.zero_add, BitVec.toNat_ofNat, Vector.length_toList,
      Nat.shiftRight_eq_div_pow]
    rw [show 32 * (n + 1) = 32 * n + 32 by ring, pow_add, Nat.mod_mul]
    ring

theorem wordsValue_valueWords_of_lt {n v : Nat} (h : v < 2 ^ (32 * n)) :
    wordsValue (valueWords n v) = v := by
  rw [wordsValue_valueWords, Nat.mod_eq_of_lt h]

/-- Reading an array as an integer and writing it back gives the array. -/
theorem valueWords_wordsValue {n : Nat} (ws : Words n) : valueWords n (wordsValue ws) = ws :=
  wordsValue_injective (wordsValue_valueWords_of_lt (wordsValue_lt ws))

@[simp] theorem wordsValue_zero (n : Nat) : wordsValue (Vector.replicate n 0#32) = 0 := by
  have h : ∀ k : Nat, (List.replicate k 0#32).foldl (fun a w => a * 2 ^ 32 + w.toNat) 0 = 0 := by
    intro k
    induction k with
    | zero => rfl
    | succ k ih => simpa [List.replicate_succ] using ih
  simpa [wordsValue] using h n

theorem wordsValue_eq_zero_iff {n : Nat} (ws : Words n) :
    wordsValue ws = 0 ↔ ws = Vector.replicate n 0 :=
  ⟨fun h => wordsValue_injective (h.trans (wordsValue_zero n).symm), fun h => h ▸ wordsValue_zero n⟩

/-! ### Byte strings (R7) -/

@[simp] theorem beBytes_length (v n : Nat) : (beBytes v n).length = n := by
  induction n with
  | zero => rfl
  | succ n ih => simp [beBytes, ih]

theorem beInt_lt (s : List Byte) : beInt s < 2 ^ (8 * s.length) :=
  foldl_digits_lt (fun b : Byte => b.toNat) 8 (fun b => b.isLt) s

theorem beInt_beBytes (v n : Nat) : beInt (beBytes v n) = v % 2 ^ (8 * n) := by
  induction n with
  | zero => simp [beInt, beBytes, Nat.mod_one]
  | succ n ih =>
    simp only [beInt, beBytes] at ih ⊢
    rw [List.foldl_cons, foldl_digits_acc (fun b : Byte => b.toNat) 8, ih]
    simp only [Nat.zero_mul, Nat.zero_add, BitVec.toNat_ofNat, beBytes_length,
      Nat.shiftRight_eq_div_pow]
    rw [show 8 * (n + 1) = 8 * n + 8 by ring, pow_add, Nat.mod_mul]
    ring

theorem beInt_injective {s t : List Byte} (hlen : s.length = t.length) (h : beInt s = beInt t) : s = t :=
  foldl_digits_inj (fun b : Byte => b.toNat) 8 (fun b => b.isLt) (fun _ _ => BitVec.eq_of_toNat_eq) hlen h

/-! ### `DIN` and digests (R36, R38) -/

@[simp] theorem dinBytes_length (s : State) : (dinBytes s).length = 64 := by
  simp [dinBytes, List.length_flatMap, wordBytes]

@[simp] theorem dinBlock_length (s : State) (len : Nat) : (dinBlock s len).length = min len 64 := by
  simp [dinBlock]

@[simp] theorem wordBits_length (w : Word) : (wordBits w).length = 32 := by simp [wordBits]

@[simp] theorem digestBits_length (d : Words 5) : (digestBits d).length = 160 := by
  simp [digestBits, List.length_flatMap]

/-! ### The modulus (R21, R92) -/

theorem modulus_pos {sb : BitVec 10} (h : 160 ≤ sb.toNat) : 0 < modulus sb := by
  have := Nat.one_lt_two_pow (n := sb.toNat) (by omega)
  simp only [modulus]; omega

theorem modulus_lt (sb : BitVec 10) : modulus sb < 2 ^ sb.toNat := by
  have := Nat.two_pow_pos sb.toNat
  simp only [modulus]; omega

theorem serialLength_le {sb : BitVec 10} (h : sb.toNat ≤ 512) : serialLength sb ≤ 64 := by
  simp only [serialLength]; omega

theorem le_serialLength (sb : BitVec 10) : sb.toNat ≤ 8 * serialLength sb := by
  simp only [serialLength]; omega

end Sys2Proof.Machine
end

