-- ==== Sys2Proof/Laws/State.lean ====
section
/-! SUPPORT. One lemma per field per named write of Machine/Ops.lean, each true by unfolding, so that no
later proof unfolds a record update. -/

namespace Sys2Proof.Machine

variable (s : State)

/-! ### `State.writeAux` -/

@[simp] theorem State.writeAux_aux (j : Fin 5) (v : Word) : (s.writeAux j v).aux = s.aux.set j v := rfl
@[simp] theorem State.writeAux_din (j : Fin 5) (v : Word) : (s.writeAux j v).din = s.din := rfl
@[simp] theorem State.writeAux_sb (j : Fin 5) (v : Word) : (s.writeAux j v).sb = s.sb := rfl
@[simp] theorem State.writeAux_caux (j : Fin 5) (v : Word) : (s.writeAux j v).caux = s.caux := rfl
@[simp] theorem State.writeAux_z (j : Fin 5) (v : Word) : (s.writeAux j v).z = s.z := rfl
@[simp] theorem State.writeAux_prev (j : Fin 5) (v : Word) : (s.writeAux j v).prev = s.prev := rfl
@[simp] theorem State.writeAux_digest (j : Fin 5) (v : Word) : (s.writeAux j v).digest = s.digest := rfl
@[simp] theorem State.writeAux_configured (j : Fin 5) (v : Word) : (s.writeAux j v).configured = s.configured := rfl
@[simp] theorem State.writeAux_seeded (j : Fin 5) (v : Word) : (s.writeAux j v).seeded = s.seeded := rfl
@[simp] theorem State.writeAux_err (j : Fin 5) (v : Word) : (s.writeAux j v).err = s.err := rfl
@[simp] theorem State.writeAux_out (j : Fin 5) (v : Word) : (s.writeAux j v).out = s.out := rfl
@[simp] theorem State.writeAux_build (j : Fin 5) (v : Word) : (s.writeAux j v).build = s.build := rfl
@[simp] theorem State.writeAux_draws (j : Fin 5) (v : Word) : (s.writeAux j v).draws = s.draws := rfl
@[simp] theorem State.writeAux_pending (j : Fin 5) (v : Word) : (s.writeAux j v).pending = s.pending := rfl
@[simp] theorem State.writeAux_answers (j : Fin 5) (v : Word) : (s.writeAux j v).answers = s.answers := rfl

/-! ### `State.writeDin` -/

@[simp] theorem State.writeDin_aux (j : Fin 16) (v : Word) : (s.writeDin j v).aux = s.aux := rfl
@[simp] theorem State.writeDin_din (j : Fin 16) (v : Word) : (s.writeDin j v).din = s.din.set j v := rfl
@[simp] theorem State.writeDin_sb (j : Fin 16) (v : Word) : (s.writeDin j v).sb = s.sb := rfl
@[simp] theorem State.writeDin_caux (j : Fin 16) (v : Word) : (s.writeDin j v).caux = s.caux := rfl
@[simp] theorem State.writeDin_z (j : Fin 16) (v : Word) : (s.writeDin j v).z = s.z := rfl
@[simp] theorem State.writeDin_prev (j : Fin 16) (v : Word) : (s.writeDin j v).prev = s.prev := rfl
@[simp] theorem State.writeDin_digest (j : Fin 16) (v : Word) : (s.writeDin j v).digest = s.digest := rfl
@[simp] theorem State.writeDin_configured (j : Fin 16) (v : Word) : (s.writeDin j v).configured = s.configured := rfl
@[simp] theorem State.writeDin_seeded (j : Fin 16) (v : Word) : (s.writeDin j v).seeded = s.seeded := rfl
@[simp] theorem State.writeDin_err (j : Fin 16) (v : Word) : (s.writeDin j v).err = s.err := rfl
@[simp] theorem State.writeDin_out (j : Fin 16) (v : Word) : (s.writeDin j v).out = s.out := rfl
@[simp] theorem State.writeDin_build (j : Fin 16) (v : Word) : (s.writeDin j v).build = s.build := rfl
@[simp] theorem State.writeDin_draws (j : Fin 16) (v : Word) : (s.writeDin j v).draws = s.draws := rfl
@[simp] theorem State.writeDin_pending (j : Fin 16) (v : Word) : (s.writeDin j v).pending = s.pending := rfl
@[simp] theorem State.writeDin_answers (j : Fin 16) (v : Word) : (s.writeDin j v).answers = s.answers := rfl

/-! ### `State.setErr` -/

@[simp] theorem State.setErr_aux (c : ErrCode) : (s.setErr c).aux = s.aux := rfl
@[simp] theorem State.setErr_din (c : ErrCode) : (s.setErr c).din = s.din := rfl
@[simp] theorem State.setErr_sb (c : ErrCode) : (s.setErr c).sb = s.sb := rfl
@[simp] theorem State.setErr_caux (c : ErrCode) : (s.setErr c).caux = s.caux := rfl
@[simp] theorem State.setErr_z (c : ErrCode) : (s.setErr c).z = s.z := rfl
@[simp] theorem State.setErr_prev (c : ErrCode) : (s.setErr c).prev = s.prev := rfl
@[simp] theorem State.setErr_digest (c : ErrCode) : (s.setErr c).digest = s.digest := rfl
@[simp] theorem State.setErr_configured (c : ErrCode) : (s.setErr c).configured = s.configured := rfl
@[simp] theorem State.setErr_seeded (c : ErrCode) : (s.setErr c).seeded = s.seeded := rfl
@[simp] theorem State.setErr_err (c : ErrCode) : (s.setErr c).err = c := rfl
@[simp] theorem State.setErr_out (c : ErrCode) : (s.setErr c).out = s.out := rfl
@[simp] theorem State.setErr_build (c : ErrCode) : (s.setErr c).build = s.build := rfl
@[simp] theorem State.setErr_draws (c : ErrCode) : (s.setErr c).draws = s.draws := rfl
@[simp] theorem State.setErr_pending (c : ErrCode) : (s.setErr c).pending = s.pending := rfl
@[simp] theorem State.setErr_answers (c : ErrCode) : (s.setErr c).answers = s.answers := rfl

/-! ### `State.configure` -/

@[simp] theorem State.configure_aux (sb : BitVec 10) : (s.configure sb).aux = s.aux := rfl
@[simp] theorem State.configure_din (sb : BitVec 10) : (s.configure sb).din = s.din := rfl
@[simp] theorem State.configure_sb (sb : BitVec 10) : (s.configure sb).sb = sb := rfl
@[simp] theorem State.configure_caux (sb : BitVec 10) : (s.configure sb).caux = s.aux := rfl
@[simp] theorem State.configure_z (sb : BitVec 10) : (s.configure sb).z = Vector.replicate 16 0 := rfl
@[simp] theorem State.configure_prev (sb : BitVec 10) : (s.configure sb).prev = Vector.replicate 5 0 := rfl
@[simp] theorem State.configure_digest (sb : BitVec 10) : (s.configure sb).digest = s.digest := rfl
@[simp] theorem State.configure_configured (sb : BitVec 10) : (s.configure sb).configured = true := rfl
@[simp] theorem State.configure_seeded (sb : BitVec 10) : (s.configure sb).seeded = false := rfl
@[simp] theorem State.configure_err (sb : BitVec 10) : (s.configure sb).err = s.err := rfl
@[simp] theorem State.configure_out (sb : BitVec 10) : (s.configure sb).out = s.out := rfl
@[simp] theorem State.configure_build (sb : BitVec 10) : (s.configure sb).build = s.build := rfl
@[simp] theorem State.configure_draws (sb : BitVec 10) : (s.configure sb).draws = s.draws := rfl
@[simp] theorem State.configure_pending (sb : BitVec 10) : (s.configure sb).pending = s.pending := rfl
@[simp] theorem State.configure_answers (sb : BitVec 10) : (s.configure sb).answers = s.answers := rfl

/-! ### `State.loadSeed` -/

@[simp] theorem State.loadSeed_aux (z : Words 16) : (s.loadSeed z).aux = s.aux := rfl
@[simp] theorem State.loadSeed_din (z : Words 16) : (s.loadSeed z).din = s.din := rfl
@[simp] theorem State.loadSeed_sb (z : Words 16) : (s.loadSeed z).sb = s.sb := rfl
@[simp] theorem State.loadSeed_caux (z : Words 16) : (s.loadSeed z).caux = s.caux := rfl
@[simp] theorem State.loadSeed_z (z : Words 16) : (s.loadSeed z).z = z := rfl
@[simp] theorem State.loadSeed_prev (z : Words 16) : (s.loadSeed z).prev = Vector.replicate 5 0 := rfl
@[simp] theorem State.loadSeed_digest (z : Words 16) : (s.loadSeed z).digest = s.digest := rfl
@[simp] theorem State.loadSeed_configured (z : Words 16) : (s.loadSeed z).configured = s.configured := rfl
@[simp] theorem State.loadSeed_seeded (z : Words 16) : (s.loadSeed z).seeded = true := rfl
@[simp] theorem State.loadSeed_err (z : Words 16) : (s.loadSeed z).err = s.err := rfl
@[simp] theorem State.loadSeed_out (z : Words 16) : (s.loadSeed z).out = s.out := rfl
@[simp] theorem State.loadSeed_build (z : Words 16) : (s.loadSeed z).build = s.build := rfl
@[simp] theorem State.loadSeed_draws (z : Words 16) : (s.loadSeed z).draws = s.draws := rfl
@[simp] theorem State.loadSeed_pending (z : Words 16) : (s.loadSeed z).pending = s.pending := rfl
@[simp] theorem State.loadSeed_answers (z : Words 16) : (s.loadSeed z).answers = s.answers := rfl

/-! ### `State.advance` -/

@[simp] theorem State.advance_aux (z : Words 16) (p : Words 5) : (s.advance z p).aux = s.aux := rfl
@[simp] theorem State.advance_din (z : Words 16) (p : Words 5) : (s.advance z p).din = s.din := rfl
@[simp] theorem State.advance_sb (z : Words 16) (p : Words 5) : (s.advance z p).sb = s.sb := rfl
@[simp] theorem State.advance_caux (z : Words 16) (p : Words 5) : (s.advance z p).caux = s.caux := rfl
@[simp] theorem State.advance_z (z : Words 16) (p : Words 5) : (s.advance z p).z = z := rfl
@[simp] theorem State.advance_prev (z : Words 16) (p : Words 5) : (s.advance z p).prev = p := rfl
@[simp] theorem State.advance_digest (z : Words 16) (p : Words 5) : (s.advance z p).digest = s.digest := rfl
@[simp] theorem State.advance_configured (z : Words 16) (p : Words 5) : (s.advance z p).configured = s.configured := rfl
@[simp] theorem State.advance_seeded (z : Words 16) (p : Words 5) : (s.advance z p).seeded = s.seeded := rfl
@[simp] theorem State.advance_err (z : Words 16) (p : Words 5) : (s.advance z p).err = s.err := rfl
@[simp] theorem State.advance_out (z : Words 16) (p : Words 5) : (s.advance z p).out = s.out := rfl
@[simp] theorem State.advance_build (z : Words 16) (p : Words 5) : (s.advance z p).build = s.build := rfl
@[simp] theorem State.advance_draws (z : Words 16) (p : Words 5) : (s.advance z p).draws = s.draws := rfl
@[simp] theorem State.advance_pending (z : Words 16) (p : Words 5) : (s.advance z p).pending = s.pending := rfl
@[simp] theorem State.advance_answers (z : Words 16) (p : Words 5) : (s.advance z p).answers = s.answers := rfl

/-! ### `State.emit` -/

@[simp] theorem State.emit_aux (b : List Bool) : (s.emit b).aux = s.aux := rfl
@[simp] theorem State.emit_din (b : List Bool) : (s.emit b).din = s.din := rfl
@[simp] theorem State.emit_sb (b : List Bool) : (s.emit b).sb = s.sb := rfl
@[simp] theorem State.emit_caux (b : List Bool) : (s.emit b).caux = s.caux := rfl
@[simp] theorem State.emit_z (b : List Bool) : (s.emit b).z = s.z := rfl
@[simp] theorem State.emit_prev (b : List Bool) : (s.emit b).prev = s.prev := rfl
@[simp] theorem State.emit_digest (b : List Bool) : (s.emit b).digest = s.digest := rfl
@[simp] theorem State.emit_configured (b : List Bool) : (s.emit b).configured = s.configured := rfl
@[simp] theorem State.emit_seeded (b : List Bool) : (s.emit b).seeded = s.seeded := rfl
@[simp] theorem State.emit_err (b : List Bool) : (s.emit b).err = s.err := rfl
@[simp] theorem State.emit_out (b : List Bool) : (s.emit b).out = s.out ++ b := rfl
@[simp] theorem State.emit_build (b : List Bool) : (s.emit b).build = s.build := rfl
@[simp] theorem State.emit_draws (b : List Bool) : (s.emit b).draws = s.draws := rfl
@[simp] theorem State.emit_pending (b : List Bool) : (s.emit b).pending = s.pending := rfl
@[simp] theorem State.emit_answers (b : List Bool) : (s.emit b).answers = s.answers := rfl

/-! ### `State.writeDigest` -/

@[simp] theorem State.writeDigest_aux (d : Words 5) : (s.writeDigest d).aux = s.aux := rfl
@[simp] theorem State.writeDigest_din (d : Words 5) : (s.writeDigest d).din = s.din := rfl
@[simp] theorem State.writeDigest_sb (d : Words 5) : (s.writeDigest d).sb = s.sb := rfl
@[simp] theorem State.writeDigest_caux (d : Words 5) : (s.writeDigest d).caux = s.caux := rfl
@[simp] theorem State.writeDigest_z (d : Words 5) : (s.writeDigest d).z = s.z := rfl
@[simp] theorem State.writeDigest_prev (d : Words 5) : (s.writeDigest d).prev = s.prev := rfl
@[simp] theorem State.writeDigest_digest (d : Words 5) : (s.writeDigest d).digest = d := rfl
@[simp] theorem State.writeDigest_configured (d : Words 5) : (s.writeDigest d).configured = s.configured := rfl
@[simp] theorem State.writeDigest_seeded (d : Words 5) : (s.writeDigest d).seeded = s.seeded := rfl
@[simp] theorem State.writeDigest_err (d : Words 5) : (s.writeDigest d).err = s.err := rfl
@[simp] theorem State.writeDigest_out (d : Words 5) : (s.writeDigest d).out = s.out := rfl
@[simp] theorem State.writeDigest_build (d : Words 5) : (s.writeDigest d).build = s.build := rfl
@[simp] theorem State.writeDigest_draws (d : Words 5) : (s.writeDigest d).draws = s.draws := rfl
@[simp] theorem State.writeDigest_pending (d : Words 5) : (s.writeDigest d).pending = s.pending := rfl
@[simp] theorem State.writeDigest_answers (d : Words 5) : (s.writeDigest d).answers = s.answers := rfl

/-! ### `State.resetRegisters` -/

@[simp] theorem State.resetRegisters_aux : (s.resetRegisters).aux = Vector.replicate 5 0 := rfl
@[simp] theorem State.resetRegisters_din : (s.resetRegisters).din = Vector.replicate 16 0 := rfl
@[simp] theorem State.resetRegisters_sb : (s.resetRegisters).sb = 0 := rfl
@[simp] theorem State.resetRegisters_caux : (s.resetRegisters).caux = Vector.replicate 5 0 := rfl
@[simp] theorem State.resetRegisters_z : (s.resetRegisters).z = Vector.replicate 16 0 := rfl
@[simp] theorem State.resetRegisters_prev : (s.resetRegisters).prev = Vector.replicate 5 0 := rfl
@[simp] theorem State.resetRegisters_digest : (s.resetRegisters).digest = Vector.replicate 5 0 := rfl
@[simp] theorem State.resetRegisters_configured : (s.resetRegisters).configured = false := rfl
@[simp] theorem State.resetRegisters_seeded : (s.resetRegisters).seeded = false := rfl
@[simp] theorem State.resetRegisters_err : (s.resetRegisters).err = .none := rfl
@[simp] theorem State.resetRegisters_out : (s.resetRegisters).out = s.out := rfl
@[simp] theorem State.resetRegisters_build : (s.resetRegisters).build = s.build := rfl
@[simp] theorem State.resetRegisters_draws : (s.resetRegisters).draws = s.draws := rfl
@[simp] theorem State.resetRegisters_pending : (s.resetRegisters).pending = s.pending := rfl
@[simp] theorem State.resetRegisters_answers : (s.resetRegisters).answers = s.answers := rfl

/-! ### `State.countDraw` -/

@[simp] theorem State.countDraw_aux : (s.countDraw).aux = s.aux := rfl
@[simp] theorem State.countDraw_din : (s.countDraw).din = s.din := rfl
@[simp] theorem State.countDraw_sb : (s.countDraw).sb = s.sb := rfl
@[simp] theorem State.countDraw_caux : (s.countDraw).caux = s.caux := rfl
@[simp] theorem State.countDraw_z : (s.countDraw).z = s.z := rfl
@[simp] theorem State.countDraw_prev : (s.countDraw).prev = s.prev := rfl
@[simp] theorem State.countDraw_digest : (s.countDraw).digest = s.digest := rfl
@[simp] theorem State.countDraw_configured : (s.countDraw).configured = s.configured := rfl
@[simp] theorem State.countDraw_seeded : (s.countDraw).seeded = s.seeded := rfl
@[simp] theorem State.countDraw_err : (s.countDraw).err = s.err := rfl
@[simp] theorem State.countDraw_out : (s.countDraw).out = s.out := rfl
@[simp] theorem State.countDraw_build : (s.countDraw).build = s.build := rfl
@[simp] theorem State.countDraw_draws : (s.countDraw).draws = s.draws + 1 := rfl
@[simp] theorem State.countDraw_pending : (s.countDraw).pending = s.pending := rfl
@[simp] theorem State.countDraw_answers : (s.countDraw).answers = s.answers := rfl

/-! ### `State.answer` -/

@[simp] theorem State.answer_aux (v : Word) : (s.answer v).aux = s.aux := rfl
@[simp] theorem State.answer_din (v : Word) : (s.answer v).din = s.din := rfl
@[simp] theorem State.answer_sb (v : Word) : (s.answer v).sb = s.sb := rfl
@[simp] theorem State.answer_caux (v : Word) : (s.answer v).caux = s.caux := rfl
@[simp] theorem State.answer_z (v : Word) : (s.answer v).z = s.z := rfl
@[simp] theorem State.answer_prev (v : Word) : (s.answer v).prev = s.prev := rfl
@[simp] theorem State.answer_digest (v : Word) : (s.answer v).digest = s.digest := rfl
@[simp] theorem State.answer_configured (v : Word) : (s.answer v).configured = s.configured := rfl
@[simp] theorem State.answer_seeded (v : Word) : (s.answer v).seeded = s.seeded := rfl
@[simp] theorem State.answer_err (v : Word) : (s.answer v).err = s.err := rfl
@[simp] theorem State.answer_out (v : Word) : (s.answer v).out = s.out := rfl
@[simp] theorem State.answer_build (v : Word) : (s.answer v).build = s.build := rfl
@[simp] theorem State.answer_draws (v : Word) : (s.answer v).draws = s.draws := rfl
@[simp] theorem State.answer_pending (v : Word) : (s.answer v).pending = s.pending := rfl
@[simp] theorem State.answer_answers (v : Word) : (s.answer v).answers = s.answers ++ [v] := rfl

/-! ### `State.setPending` -/

@[simp] theorem State.setPending_aux (l : List Access) : (s.setPending l).aux = s.aux := rfl
@[simp] theorem State.setPending_din (l : List Access) : (s.setPending l).din = s.din := rfl
@[simp] theorem State.setPending_sb (l : List Access) : (s.setPending l).sb = s.sb := rfl
@[simp] theorem State.setPending_caux (l : List Access) : (s.setPending l).caux = s.caux := rfl
@[simp] theorem State.setPending_z (l : List Access) : (s.setPending l).z = s.z := rfl
@[simp] theorem State.setPending_prev (l : List Access) : (s.setPending l).prev = s.prev := rfl
@[simp] theorem State.setPending_digest (l : List Access) : (s.setPending l).digest = s.digest := rfl
@[simp] theorem State.setPending_configured (l : List Access) : (s.setPending l).configured = s.configured := rfl
@[simp] theorem State.setPending_seeded (l : List Access) : (s.setPending l).seeded = s.seeded := rfl
@[simp] theorem State.setPending_err (l : List Access) : (s.setPending l).err = s.err := rfl
@[simp] theorem State.setPending_out (l : List Access) : (s.setPending l).out = s.out := rfl
@[simp] theorem State.setPending_build (l : List Access) : (s.setPending l).build = s.build := rfl
@[simp] theorem State.setPending_draws (l : List Access) : (s.setPending l).draws = s.draws := rfl
@[simp] theorem State.setPending_pending (l : List Access) : (s.setPending l).pending = l := rfl
@[simp] theorem State.setPending_answers (l : List Access) : (s.setPending l).answers = s.answers := rfl

end Sys2Proof.Machine
end

