-- ==== Sys2Proof/Laws/Ops.lean ====
section
/-! SUPPORT. What each shared operation of Machine/Ops.lean and Machine/Flags.lean can do: the checks every
command goes through, fault entry, and the register map. -/

namespace Sys2Proof.Machine

/-! ### Checks and faults -/

theorem unlessPending_clear {s : State} (r : Result) (h : s.err = .none) : unlessPending s r = r :=
  if_pos h

theorem unlessPending_pending {s : State} (r : Result) (h : s.err ≠ .none) :
    unlessPending s r = .next s :=
  if_neg h

/-- A guarded command that answers `t` was dropped, or acted with no fault pending. -/
theorem unlessPending_next {s t : State} {r : Result} (h : unlessPending s r = .next t) :
    (s.err ≠ .none ∧ t = s) ∨ (s.err = .none ∧ r = .next t) := by
  by_cases he : s.err = .none
  · exact .inr ⟨he, by rwa [unlessPending_clear r he] at h⟩
  · rw [unlessPending_pending r he] at h
    exact .inl ⟨he, (Host.Outcome.next.inj h).symm⟩

theorem raise_next {c : ErrCode} {s t : State} : raise c s = .next t ↔ t = s.setErr c :=
  ⟨fun h => (Host.Outcome.next.inj h).symm, fun h => by rw [h]; rfl⟩

theorem ifConfigured_next {s t : State} {r : Result} (h : ifConfigured s r = .next t) :
    (s.configured = false ∧ t = s.setErr .sequence) ∨ (s.configured = true ∧ r = .next t) := by
  cases hc : s.configured <;> simp only [ifConfigured, hc] at h
  · exact .inl ⟨rfl, raise_next.1 (by simpa using h)⟩
  · exact .inr ⟨rfl, by simpa using h⟩

theorem ifSeeded_next {s t : State} {r : Result} (h : ifSeeded s r = .next t) :
    (¬(s.configured = true ∧ s.seeded = true) ∧ t = s.setErr .sequence) ∨
      ((s.configured = true ∧ s.seeded = true) ∧ r = .next t) := by
  by_cases hc : s.configured = true ∧ s.seeded = true
  · exact .inr ⟨hc, by simpa [ifSeeded, hc.1, hc.2] using h⟩
  · refine .inl ⟨hc, raise_next.1 ?_⟩
    have : (s.configured && s.seeded) = false := by
      cases h1 : s.configured <;> cases h2 : s.seeded <;> simp_all
    simpa [ifSeeded, this] using h

/-! ### The register map (R31) -/

theorem arrayIndex_eq_some {n first off : Nat} {j : Fin n} :
    arrayIndex n first off = some j ↔ off = first + 4 * j.val := by
  obtain ⟨j, hj⟩ := j
  simp only [arrayIndex]
  split
  · split <;> simp_all [Fin.ext_iff]
    · constructor <;> intro h <;> omega
    · intro h; omega
  · rename_i h
    simp only [reduceCtorEq, false_iff]
    intro he
    exact h (by omega)

theorem arrayIndex_eq_none {n first off : Nat} :
    arrayIndex n first off = none ↔ ∀ j < n, off ≠ first + 4 * j := by
  rw [Option.eq_none_iff_forall_ne_some]
  exact ⟨fun h j hj he => h ⟨j, hj⟩ (arrayIndex_eq_some.2 he),
    fun h j hj => h j.val j.isLt (arrayIndex_eq_some.1 hj)⟩

/-- An access is resolved to a register exactly when no clause of R35 on size, alignment or offset
refuses it. -/
theorem resolve_ok {b : Build} {addr size : Nat} {r : Reg} :
    resolve b addr size = .ok r ↔
      size = 4 ∧ addr % 4 = 0 ∧ b.base ≤ addr ∧ addr < b.base + Config.windowBytes ∧
        regAt (addr - b.base) = some r := by
  simp only [resolve]
  split
  · simp_all
  split
  · simp_all
  split
  · rename_i h
    simp only [reduceCtorEq, false_iff]
    omega
  rename_i h1 h2 h3
  have : size = 4 ∧ addr % 4 = 0 ∧ b.base ≤ addr ∧ addr < b.base + Config.windowBytes := by omega
  split <;> simp_all

/-- The flags as `STATUS` shows them depend on nothing but the flags, `ERR` and the build. -/
theorem statusWord_congr {s t : State} (hb : t.build = s.build) (he : t.err = s.err)
    (hs : t.seeded = s.seeded) (hc : t.configured = s.configured) : statusWord t = statusWord s := by
  simp only [statusWord, hb, he, hs, hc]

end Sys2Proof.Machine
end

