-- ==== Sys2Proof/Laws/Control.lean ====
section
/-! SUPPORT. What NOP, CLRERR and RESET answer. -/

namespace Sys2Proof.Machine

theorem execNop_next {s t : State} (h : execNop s = .next t) : t = s := by
  obtain h | h := unlessPending_next h
  · exact h.2
  · exact (Host.Outcome.next.inj h.2).symm

theorem execClrerr_next {s t : State} (h : execClrerr s = .next t) : t = s.setErr .none :=
  (Host.Outcome.next.inj h).symm

theorem execReset_next {s t : State} (h : execReset s = .next t) : t = s.resetRegisters :=
  (Host.Outcome.next.inj h).symm

end Sys2Proof.Machine
end

