-- ==== Sys2Proof/Laws/Compression.lean ====
section
/-! SUPPORT. Lemmas about the parts of G: padding, words, and the loop. -/

namespace Sys2Proof.Machine

theorem padBlock_length {block : List Byte} (h : block.length ≤ 64) : (padBlock block).length = 64 := by
  simp [padBlock, Config.blockBytes, h]

/-- A block of `4 * n` bytes has `n` words, and each is its four bytes, the first most significant. -/
theorem blockWords_length {n : Nat} {p : List Byte} (h : p.length = 4 * n) : (blockWords p).length = n := by
  induction n generalizing p with
  | zero => simp_all [blockWords]
  | succ n ih =>
    match p, h with
    | b0 :: b1 :: b2 :: b3 :: rest, h =>
      simp only [blockWords, List.length_cons]
      rw [ih (by simp only [List.length_cons] at h; omega)]

theorem blockWords_getElem? {n : Nat} {p : List Byte} (h : p.length = 4 * n) {i : Nat} (hi : i < n) :
    (blockWords p)[i]? = some (p.getD (4 * i) 0 ++ p.getD (4 * i + 1) 0 ++ p.getD (4 * i + 2) 0
      ++ p.getD (4 * i + 3) 0) := by
  induction n generalizing p i with
  | zero => omega
  | succ n ih =>
    match p, h with
    | b0 :: b1 :: b2 :: b3 :: rest, h =>
      cases i with
      | zero => simp [blockWords]
      | succ i =>
        have h' : rest.length = 4 * n := by simp only [List.length_cons] at h; omega
        simp only [blockWords, List.getElem?_cons_succ]
        rw [ih h' (by omega)]
        simp [Nat.mul_add]

/-- The loop over a list cut in two (R65). -/
theorem gLoop_append (r : WorkRegs) (u v : List Word) : gLoop r (u ++ v) = gLoop (gLoop r u) v := by
  simp [gLoop]

theorem initialWords_of_not (aux : Words 5) : initialWords false aux = Config.initialConstants := rfl

theorem initialWords_of_aux (aux : Words 5) : initialWords true aux = aux := rfl

theorem compressG_of_le {iv : Bool} {aux : Words 5} {block : List Byte} (h : block.length ≤ 64) :
    compressG iv aux block = .ok (gDigest iv aux block) :=
  if_neg (by simp only [Config.blockBytes]; omega)

/-- COMPRESS that answers `t` was dropped, raised InvalidInputLength, or wrote `DIGEST` only (R69). -/
theorem execCompress_next {len : Imm} {s t : State} (h : execCompress len s = .next t) :
    (s.err ≠ .none ∧ t = s) ∨ (s.err = .none ∧ 64 < len.toNat ∧ t = s.setErr .invalidInputLength) ∨
      (s.err = .none ∧ len.toNat ≤ 64 ∧
        t = s.writeDigest (gDigest s.build.ivFromAux s.aux (dinBlock s len.toNat))) := by
  obtain h | ⟨he, h⟩ := unlessPending_next h
  · exact .inl h
  by_cases hl : Config.blockBytes < zextImm len
  · rw [if_pos hl] at h
    exact .inr (.inl ⟨he, hl, raise_next.1 h⟩)
  · rw [if_neg hl] at h
    exact .inr (.inr ⟨he, Nat.le_of_not_lt hl, (Host.Outcome.next.inj h).symm⟩)

end Sys2Proof.Machine
end

