-- ==== Sys2Proof/Laws/Generator.lean ====
section
/-! SUPPORT. What the generator's step and loop can do, and what CFG, SEED, SEEDRND and GEN answer. -/

namespace Sys2Proof.Machine

/-! ### The step (R85) -/

@[simp] theorem serializedZ_length (s : State) : (serializedZ s).length = serialLength s.sb := by
  simp [serializedZ]

theorem nextZ_lt {s : State} (h : 160 ≤ s.sb.toNat) : nextZ s < modulus s.sb :=
  Nat.mod_lt _ (modulus_pos h)

theorem zCandidate_lt {s : State} (h : 160 ≤ s.sb.toNat) : zCandidate s < modulus s.sb :=
  Nat.mod_lt _ (modulus_pos h)

/-- A value below `2 ^ SB` fits the sixteen words of `Z` (R23). -/
theorem wordsValue_valueWords_of_sb {sb : BitVec 10} {v : Nat} (hsb : sb.toNat ≤ 512)
    (hv : v < 2 ^ sb.toNat) : wordsValue (valueWords 16 v) = v := by
  rw [wordsValue_valueWords, Nat.mod_eq_of_lt]
  exact hv.trans_le (Nat.pow_le_pow_right Nat.two_pos (by omega))

theorem wordsValue_genStep_z {s : State} (h : 160 ≤ s.sb.toNat) (h' : s.sb.toNat ≤ 512) :
    wordsValue (genStep s).z = nextZ s :=
  wordsValue_valueWords_of_sb h' ((nextZ_lt h).trans (modulus_lt _))

/-! ### The loop (R87) -/

/-- A loop writes `Z`, `PREV` and `OUT`, and nothing else. -/
theorem genLoop_frame (steps count : Nat) (s : State) :
    genLoop steps count s =
      { s with z := (genLoop steps count s).z, prev := (genLoop steps count s).prev,
               out := (genLoop steps count s).out } := by
  induction steps generalizing count s with
  | zero => rfl
  | succ n ih =>
    simp only [genLoop]
    rw [ih]
    rfl

/-- `generate` writes `Z`, `PREV` and `OUT`, and nothing else (R87). -/
theorem generate_frame (count : Nat) (s : State) :
    generate count s =
      { s with z := (generate count s).z, prev := (generate count s).prev,
               out := (generate count s).out } :=
  genLoop_frame _ _ _

/-- A loop only appends to `OUT`. -/
theorem genLoop_out_prefix (steps count : Nat) (s : State) : s.out <+: (genLoop steps count s).out := by
  induction steps generalizing count s with
  | zero => exact List.prefix_refl _
  | succ n ih => simp only [genLoop]; exact List.IsPrefix.trans (l₂ := ((genStep s).emit _).out) (List.prefix_append s.out _) (ih _ _)

/-- What holds of the registers after a step and does not look at `OUT` holds after every loop of at
least one step, if a step keeps it. -/
theorem genLoop_induction (P : State → Prop) (hout : ∀ s b, P s → P (s.emit b))
    (hstep : ∀ s, P s → P (genStep s)) {steps count : Nat} {s : State} (h : P s) :
    P (genLoop steps count s) := by
  induction steps generalizing count s with
  | zero => exact h
  | succ n ih => exact ih (hout _ _ (hstep _ h))

/-- What a loop of at least one step leaves is what its last step left: a step from some state `u` that
differs from `s` in `Z`, `PREV` and `OUT` alone, and then bits on `OUT`. -/
theorem genLoop_succ_last (steps count : Nat) (s : State) :
    ∃ (u : State) (b : List Bool), u = { s with z := u.z, prev := u.prev, out := u.out } ∧
      genLoop (steps + 1) count s = (genStep u).emit b := by
  induction steps generalizing count s with
  | zero => exact ⟨s, _, rfl, by rw [genLoop, genLoop]⟩
  | succ n ih =>
    obtain ⟨u, b, hu, h⟩ := ih (count - Config.digestBits)
      ((genStep s).emit ((digestBits (stepDigest s)).take (min Config.digestBits count)))
    refine ⟨u, b, ?_, by rw [genLoop, h]⟩
    simpa only [State.emit, genStep, State.advance] using hu

theorem stepCount_pos {count : Nat} (h : count ≠ 0) : 0 < stepCount count := by
  simp only [stepCount, Config.digestBits]
  omega

/-- What a GEN leaves is what its last step left (R87): as `genLoop_succ_last`. -/
theorem generate_last {count : Nat} (h : count ≠ 0) (s : State) :
    ∃ (u : State) (b : List Bool), u = { s with z := u.z, prev := u.prev, out := u.out } ∧
      generate count s = (genStep u).emit b := by
  have hp := stepCount_pos h
  rw [generate, ← Nat.succ_pred_eq_of_pos hp]
  exact genLoop_succ_last _ _ _

/-! ### What the commands answer -/

theorem legalSeedBits_iff (n : Nat) : legalSeedBits n = true ↔ 160 ≤ n ∧ n ≤ 512 := by
  rw [legalSeedBits, Bool.and_eq_true, decide_eq_true_iff, decide_eq_true_iff]; rfl

/-- CFG that answers `t` was dropped, raised ValidationError, or configured (R76). -/
theorem execCfg_next {n : Imm} {s t : State} (h : execCfg n s = .next t) :
    (s.err ≠ .none ∧ t = s) ∨
      (s.err = .none ∧ ¬(160 ≤ n.toNat ∧ n.toNat ≤ 512) ∧ t = s.setErr .validation) ∨
      (s.err = .none ∧ (160 ≤ n.toNat ∧ n.toNat ≤ 512) ∧ t = s.configure (BitVec.ofNat 10 n.toNat)) := by
  obtain h | ⟨he, h⟩ := unlessPending_next h
  · exact .inl h
  by_cases hl : legalSeedBits (zextImm n) = true
  · rw [if_pos hl] at h
    exact .inr (.inr ⟨he, (legalSeedBits_iff _).1 hl, (Host.Outcome.next.inj h).symm⟩)
  · rw [if_neg hl] at h
    exact .inr (.inl ⟨he, fun hh => hl ((legalSeedBits_iff _).2 hh), raise_next.1 h⟩)

/-- SEED that answers `t` was dropped, raised Sequence or SeedRange, or loaded the seed (R78). -/
theorem execSeed_next {s t : State} (h : execSeed s = .next t) :
    (s.err ≠ .none ∧ t = s) ∨ (s.err = .none ∧ s.configured = false ∧ t = s.setErr .sequence) ∨
      (s.err = .none ∧ s.configured = true ∧ 2 ^ s.sb.toNat ≤ wordsValue s.din ∧
        t = s.setErr .seedRange) ∨
      (s.err = .none ∧ s.configured = true ∧ wordsValue s.din < 2 ^ s.sb.toNat ∧ t = s.loadSeed s.din) := by
  obtain h | ⟨he, h⟩ := unlessPending_next h
  · exact .inl h
  obtain ⟨hc, h⟩ | ⟨hc, h⟩ := ifConfigured_next h
  · exact .inr (.inl ⟨he, hc, h⟩)
  by_cases hr : 2 ^ s.sb.toNat ≤ dinSeed s
  · rw [if_pos hr] at h
    exact .inr (.inr (.inl ⟨he, hc, hr, raise_next.1 h⟩))
  · rw [if_neg hr, dinSeed, valueWords_wordsValue] at h
    exact .inr (.inr (.inr ⟨he, hc, Nat.lt_of_not_le hr, (Host.Outcome.next.inj h).symm⟩))

theorem entropySeed_lt (s : State) : entropySeed s < 2 ^ s.sb.toNat := BitVec.isLt _

/-- SEEDRND that answers `t` was dropped, raised Sequence, or loaded the draw (R80). -/
theorem execSeedrnd_next {s t : State} (h : execSeedrnd s = .next t) :
    (s.err ≠ .none ∧ t = s) ∨ (s.err = .none ∧ s.configured = false ∧ t = s.setErr .sequence) ∨
      (s.err = .none ∧ s.configured = true ∧ t = (s.loadSeed (valueWords 16 (entropySeed s))).countDraw) := by
  obtain h | ⟨he, h⟩ := unlessPending_next h
  · exact .inl h
  obtain ⟨hc, h⟩ | ⟨hc, h⟩ := ifConfigured_next h
  · exact .inr (.inl ⟨he, hc, h⟩)
  · exact .inr (.inr ⟨he, hc, (Host.Outcome.next.inj h).symm⟩)

/-- GEN that answers `t` was dropped, raised a fault, or generated (R87). -/
theorem execGen_next {c : Imm} {s t : State} (h : execGen c s = .next t) :
    (s.err ≠ .none ∧ t = s) ∨ (s.err = .none ∧ c = 0 ∧ t = s.setErr .badCommand) ∨
      (s.err = .none ∧ c ≠ 0 ∧ ¬(s.configured = true ∧ s.seeded = true) ∧ t = s.setErr .sequence) ∨
      (s.err = .none ∧ c ≠ 0 ∧ (s.configured = true ∧ s.seeded = true) ∧ t = generate c.toNat s) := by
  obtain h | ⟨he, h⟩ := unlessPending_next h
  · exact .inl h
  by_cases hz : c = 0
  · rw [if_pos hz] at h
    exact .inr (.inl ⟨he, hz, raise_next.1 h⟩)
  rw [if_neg hz] at h
  obtain ⟨hc, h⟩ | ⟨hc, h⟩ := ifSeeded_next h
  · exact .inr (.inr (.inl ⟨he, hz, hc, h⟩))
  · exact .inr (.inr (.inr ⟨he, hz, hc, (Host.Outcome.next.inj h).symm⟩))

end Sys2Proof.Machine
end

