-- ==== Sys2Proof/Laws/Commands.lean ====
section
/-! SUPPORT. Everything a command can do, said once: a command leaves the state alone, raises one fault, or
performs the writes of its own rule. -/

namespace Sys2Proof.Machine

/-- The inversion of `exec`: the cases of a command that answers `t`. -/
inductive CommandCase (i : Instr) (s t : State) : Prop where
  /-- Nothing happened: NOP, or a command dropped while a fault is pending (R106). -/
  | unchanged (h : t = s)
  /-- A fault was raised (R104). -/
  | fault (c : ErrCode) (he : s.err = .none) (hc : c ≠ .none) (h : t = s.setErr c)
  /-- CLRERR (R96). -/
  | cleared (hi : i = .clrerr) (h : t = s.setErr .none)
  /-- RESET (R97). -/
  | wasReset (hi : i = .reset) (h : t = s.resetRegisters)
  /-- CFG configured (R76). -/
  | configured (n : Imm) (hi : i = .cfg n) (he : s.err = .none) (hn : 160 ≤ n.toNat ∧ n.toNat ≤ 512)
      (h : t = s.configure (BitVec.ofNat 10 n.toNat))
  /-- SEED loaded the seed (R78). -/
  | seeded (hi : i = .seed) (he : s.err = .none) (hc : s.configured = true)
      (hr : wordsValue s.din < 2 ^ s.sb.toNat) (h : t = s.loadSeed s.din)
  /-- SEEDRND loaded a draw (R80). -/
  | drawn (hi : i = .seedrnd) (he : s.err = .none) (hc : s.configured = true)
      (h : t = (s.loadSeed (valueWords 16 (entropySeed s))).countDraw)
  /-- GEN generated (R87). -/
  | generated (c : Imm) (hi : i = .gen c) (he : s.err = .none) (h0 : c ≠ 0)
      (hc : s.configured = true ∧ s.seeded = true) (h : t = generate c.toNat s)
  /-- COMPRESS wrote `DIGEST` (R69). -/
  | compressed (n : Imm) (hi : i = .compress n) (he : s.err = .none) (hn : n.toNat ≤ 64)
      (h : t = s.writeDigest (gDigest s.build.ivFromAux s.aux (dinBlock s n.toNat)))

theorem exec_next {i : Instr} {s t : State} (h : exec i s = .next t) : CommandCase i s t := by
  cases i with
  | nop => exact .unchanged (execNop_next h)
  | cfg n =>
    obtain h | h | h := execCfg_next h
    · exact .unchanged h.2
    · exact .fault _ h.1 (by decide) h.2.2
    · exact .configured n rfl h.1 h.2.1 h.2.2
  | seed =>
    obtain h | h | h | h := execSeed_next h
    · exact .unchanged h.2
    · exact .fault _ h.1 (by decide) h.2.2
    · exact .fault _ h.1 (by decide) h.2.2.2
    · exact .seeded rfl h.1 h.2.1 h.2.2.1 h.2.2.2
  | seedrnd =>
    obtain h | h | h := execSeedrnd_next h
    · exact .unchanged h.2
    · exact .fault _ h.1 (by decide) h.2.2
    · exact .drawn rfl h.1 h.2.1 h.2.2
  | gen c =>
    obtain h | h | h | h := execGen_next h
    · exact .unchanged h.2
    · exact .fault _ h.1 (by decide) h.2.2
    · exact .fault _ h.1 (by decide) h.2.2.2
    · exact .generated c rfl h.1 h.2.1 h.2.2.1 h.2.2.2
  | compress n =>
    obtain h | h | h := execCompress_next h
    · exact .unchanged h.2
    · exact .fault _ h.1 (by decide) h.2.2
    · exact .compressed n rfl h.1 h.2.1 h.2.2
  | clrerr => exact .cleared rfl (execClrerr_next h)
  | reset => exact .wasReset rfl (execReset_next h)

end Sys2Proof.Machine
end

