-- ==== Sys2Proof/Laws/Bus.lean ====
section
/-! SUPPORT. What one event of the outside world can do, said once for every later proof over steps. -/

namespace Sys2Proof.Machine

/-- A performed read appends one answer (R33). -/
theorem performRead_next {addr size : Nat} {s t : State} (h : performRead addr size s = .next t) :
    ∃ r v, resolve s.build addr size = .ok r ∧ readReg s r = some v ∧ t = s.answer v := by
  unfold performRead at h
  split at h
  · cases h
  rename_i r hr
  split at h
  · rename_i v hv
    exact ⟨r, v, hr, hv, (Host.Outcome.next.inj h).symm⟩
  · cases h

/-- A performed write loads a staging word or performs a command (R34). -/
theorem performWrite_next {addr size : Nat} {v : Word} {s t : State}
    (h : performWrite addr size v s = .next t) :
    (∃ j, t = s.writeAux j v) ∨ (∃ j, t = s.writeDin j v) ∨ performCommand v s = .next t := by
  unfold performWrite at h
  split at h
  · cases h
  rename_i r _
  cases r <;> simp only [writeReg, reduceCtorEq] at h
  · exact .inr (.inr h)
  · exact .inl ⟨_, (Host.Outcome.next.inj h).symm⟩
  · exact .inr (.inl ⟨_, (Host.Outcome.next.inj h).symm⟩)

/-- A command word that answers `t` performed its command, was dropped, or raised BadCommand (R49). -/
theorem performCommand_next {w : Word} {s t : State} (h : performCommand w s = .next t) :
    (∃ i, decode w = .ok i ∧ exec i s = .next t) ∨ t = s ∨ t = s.setErr .badCommand := by
  unfold performCommand at h
  split at h
  · rename_i i hi
    exact .inl ⟨i, hi, h⟩
  · obtain h | h := unlessPending_next h
    · exact .inr (.inl h.2)
    · exact .inr (.inr (raise_next.1 h.2))

/-- A reset inside a command resets the registers and lets a prefix of the command's bits stand (R122). -/
theorem performResetDuring_next {w : Word} {s t : State} (h : performResetDuring w s = .next t) :
    ∃ u bits, performCommand w s = .next u ∧ bits <+: emitted s u ∧
      t = (s.resetRegisters.emit bits).countDraw := by
  unfold performResetDuring at h
  split at h
  · rename_i u hu
    exact ⟨u, _, hu, List.take_prefix _ _, (Host.Outcome.next.inj h).symm⟩
  · cases h
  · cases h

/-- A step that answers `t` found nothing pending, or performed the next event. -/
theorem step_next {s t : State} (h : step s = .next t) :
    (s.pending = [] ∧ t = s) ∨
      ∃ a rest, s.pending = a :: rest ∧ performAccess a (s.setPending rest) = .next t := by
  unfold step stepPending at h
  split at h
  · rename_i hp
    exact .inl ⟨hp, (Host.Outcome.next.inj h).symm⟩
  · rename_i a rest hp
    exact .inr ⟨a, rest, hp, h⟩

/-- A property of states that no write, command or reset breaks is kept by every step. The one place
where the events of R137 are told apart. -/
theorem step_keeps (P : State → Prop) (hpending : ∀ s l, P s → P (s.setPending l))
    (hanswer : ∀ s v, P s → P (s.answer v)) (haux : ∀ s j v, P s → P (s.writeAux j v))
    (hdin : ∀ s j v, P s → P (s.writeDin j v)) (hbad : ∀ s, P s → P (s.setErr .badCommand))
    (hexec : ∀ i s t, P s → exec i s = .next t → P t)
    (hreset : ∀ s, P s → P s.resetRegisters) (hemit : ∀ s b, P s → P (s.emit b))
    (hdraw : ∀ s, P s → P s.countDraw) {s t : State} (h : P s) (hs : step s = .next t) : P t := by
  have hcmd : ∀ w s t, P s → performCommand w s = .next t → P t := by
    intro w s t h hc
    obtain ⟨i, -, hi⟩ | rfl | rfl := performCommand_next hc
    · exact hexec i s t h hi
    · exact h
    · exact hbad s h
  obtain ⟨-, rfl⟩ | ⟨a, rest, -, ha⟩ := step_next hs
  · exact h
  have h' := hpending s rest h
  cases a with
  | read addr size =>
    obtain ⟨r, v, -, -, rfl⟩ := performRead_next ha
    exact hanswer _ _ h'
  | write addr size v =>
    obtain ⟨j, rfl⟩ | ⟨j, rfl⟩ | hc := performWrite_next ha
    · exact haux _ _ _ h'
    · exact hdin _ _ _ h'
    · exact hcmd _ _ _ h' hc
  | hardReset =>
    cases ha
    exact hreset _ h'
  | hardResetDuring w =>
    obtain ⟨u, bits, -, -, rfl⟩ := performResetDuring_next ha
    exact hdraw _ (hemit _ _ (hreset _ h'))

end Sys2Proof.Machine
end

