-- ==== Sys2Proof/Laws/PerInstr.lean ====
section
/-! SUPPORT. The per-instruction family `Row`: the word of every command matches its row of
spec/30_encoding.md R46. -/

namespace Sys2Proof.Laws.Row

/-- The word of `i` carries its operation code in 31:24 and its immediate in 23:0 (R45), and `w & mask =
match` for its row of R46. -/
def Statement (i : Instr) : Prop :=
  opField (encode i) = i.op ∧ immField (encode i) = i.imm ∧ encode i &&& i.row.2 = i.row.1

theorem opField_encode (i : Instr) : opField (encode i) = i.op := by
  ext k hk
  simp only [opField, encode, BitVec.getElem_extractLsb', BitVec.getLsbD_or, BitVec.getLsbD_shiftLeft,
    BitVec.getLsbD_setWidth, BitVec.getLsbD_of_ge i.imm (24 + k) (by omega)]
  simp [hk, show 24 + k < 32 by omega, show k < 32 by omega]

theorem immField_encode (i : Instr) : immField (encode i) = i.imm := by
  ext k hk
  simp only [immField, encode, BitVec.getElem_extractLsb', BitVec.getLsbD_or, BitVec.getLsbD_shiftLeft,
    BitVec.getLsbD_setWidth]
  simp [hk, show k < 32 by omega]

theorem opMask_fin : ∀ j : Fin 32, (0xFF000000 : Word).getLsbD j.val = decide (24 ≤ j.val) := by decide

theorem opMask_getElem {k : Nat} (hk : k < 32) : (0xFF000000 : Word)[k] = decide (24 ≤ k) :=
  opMask_fin ⟨k, hk⟩

/-- The mask of CFG, GEN and COMPRESS keeps `OP` and clears `IMM`. -/
theorem encode_and_opMask (i : Instr) : encode i &&& (0xFF000000 : Word) = i.op.setWidth 32 <<< 24 := by
  ext k hk
  rw [BitVec.getElem_and, opMask_getElem hk, encode, BitVec.getElem_or, BitVec.getElem_shiftLeft]
  by_cases h : k < 24
  · simp [h]
  · simp [h, show 24 ≤ k by omega]

theorem nop : Statement .nop := by
  refine ⟨?_, ?_, ?_⟩ <;> decide

theorem cfg (seedBits : Imm) : Statement (.cfg seedBits) :=
  ⟨opField_encode _, immField_encode _, (encode_and_opMask _).trans <| by
    show BitVec.setWidth 32 (0x01 : BitVec 8) <<< 24 = (0x01000000 : Word)
    decide⟩

theorem seed : Statement .seed := by
  refine ⟨?_, ?_, ?_⟩ <;> decide

theorem seedrnd : Statement .seedrnd := by
  refine ⟨?_, ?_, ?_⟩ <;> decide

theorem gen (count : Imm) : Statement (.gen count) :=
  ⟨opField_encode _, immField_encode _, (encode_and_opMask _).trans <| by
    show BitVec.setWidth 32 (0x04 : BitVec 8) <<< 24 = (0x04000000 : Word)
    decide⟩

theorem compress (len : Imm) : Statement (.compress len) :=
  ⟨opField_encode _, immField_encode _, (encode_and_opMask _).trans <| by
    show BitVec.setWidth 32 (0x05 : BitVec 8) <<< 24 = (0x05000000 : Word)
    decide⟩

theorem clrerr : Statement .clrerr := by
  refine ⟨?_, ?_, ?_⟩ <;> decide

theorem reset : Statement .reset := by
  refine ⟨?_, ?_, ?_⟩ <;> decide

end Sys2Proof.Laws.Row
end

