-- ==== Sys2Proof/Tests/Slice0.lean ====
section
/-! SUPPORT. Tests. Expected results are the vectors of spec/95_test_vectors.md (named in each comment) or
are worked out by hand from a rule. The second half gives, for each statement with hypotheses, concrete
states and operands that meet them, at the boundaries of its clauses. -/

namespace Sys2Proof.Tests

open Sys2Proof Sys2Proof.Machine

/-! ### Helpers -/

/-- The next state of a result, if there is one. -/
def nextOf : Result → Option State
  | .next s => some s
  | .fault _ => none
  | .refused _ => none

theorem exists_next {r : Result} (h : (nextOf r).isSome = true) : ∃ t, r = .next t := by
  cases r with
  | next t => exact ⟨t, rfl⟩
  | fault f => cases h
  | refused x => cases h

/-- What a refusal says, if the result is one. -/
def refusalOf : Result → Option Refusal
  | .next _ => none
  | .fault _ => none
  | .refused r => some r

/-- `STATUS` after a result. -/
def statusOf (r : Result) : Option Word := (nextOf r).map statusWord

/-- Five words from a 160-bit number. -/
def five (v : Nat) : Words 5 := valueWords 5 v

/-- A configured generator. -/
def configured (sb : BitVec 10) : State := { State.reset with configured := true, sb := sb }

/-- A configured and seeded generator with accumulator `z`. -/
def seeded (sb : BitVec 10) (z : Nat) : State :=
  { State.reset with configured := true, seeded := true, sb := sb, z := valueWords 16 z }

/-- The reset state with a fault pending. -/
def pendingFault (c : ErrCode) : State := { State.reset with err := c }

/-- `DIN` of vectors K3 to K5: `616263` and then bytes `ff`. -/
def dinK3 : State := { State.reset with din := (Vector.replicate 16 0xffffffff).set 0 0x616263ff }

/-- The digest `d1` of spec/95_test_vectors.md section 3.2. -/
def d1 : Nat := 0x0568191e75349123f6ee1055e3500dc021ee4ded

/-! ### Well-formedness (R47, R48) -/

theorem test_wf_gen_zero_refused : (Instr.gen 0).wellFormed = false := by decide

theorem test_wf_accepts : (Instr.gen 1).WF ∧ (Instr.cfg 0).WF ∧ (Instr.compress 0).WF ∧ Instr.nop.WF ∧
    Instr.seed.WF ∧ Instr.seedrnd.WF ∧ Instr.clrerr.WF ∧ Instr.reset.WF := by decide

/-! ### Decoding: words written out bit by bit from R45 and R46 -/

theorem test_decode_nop : decode 0b00000000_000000000000000000000000 = .ok .nop := by decide

theorem test_decode_cfg : decode 0b00000001_000000000000000010100000 = .ok (.cfg 160) := by decide

theorem test_decode_seed : decode 0b00000010_000000000000000000000000 = .ok .seed := by decide

theorem test_decode_seedrnd : decode 0b00000011_000000000000000000000000 = .ok .seedrnd := by decide

theorem test_decode_gen : decode 0b00000100_111111111111111111111111 = .ok (.gen 16777215) := by decide

theorem test_decode_compress : decode 0b00000101_000000000000000001000001 = .ok (.compress 65) := by decide

theorem test_decode_clrerr : decode 0b00000110_000000000000000000000000 = .ok .clrerr := by decide

theorem test_decode_reset : decode 0b00000111_000000000000000000000000 = .ok .reset := by decide

/-- Section 5, the reserved words. -/
theorem test_decode_reserved :
    decode 0x00000001 = .error (.immediate 0) ∧ decode 0x02000001 = .error (.immediate 2) ∧
    decode 0x06000100 = .error (.immediate 6) ∧ decode 0x04000000 = .error .genZero ∧
    decode 0x08000000 = .error (.opcode 8) ∧ decode 0xffffffff = .error (.opcode 0xff) := by decide

/-- The rows of R46 do not overlap: no word agrees with two rows on the bits both fix. -/
theorem test_rows_disjoint :
    ([Instr.nop, .cfg 0, .seed, .seedrnd, .gen 1, .compress 0, .clrerr, .reset].map Instr.row).Pairwise
      (fun p q => p.1 &&& (p.2 &&& q.2) ≠ q.1 &&& (p.2 &&& q.2)) := by decide

theorem test_decodeTableWord : decodeTableWord 32 0x010000a0 = some (.cfg 160) ∧
    decodeTableWord 32 0x04000000 = none := by decide

/-- The placed command runs in the very next step, as the first one after reset. -/
theorem test_placed_command_runs :
    nextOf (step (State.reset.withFetchWord 32 0x010000a0)) = nextOf (exec (.cfg 160) State.reset) := by
  decide

/-! ### G and COMPRESS -/

/-- Vector G1, and rule R68's worked example. -/
theorem test_g_empty : gDigest false (five 0) [] = five d1 := by decide +kernel

/-- Vector G9: a full block, no padding. -/
theorem test_g_full : gDigest false (five 0) ((List.range 64).map (BitVec.ofNat 8)) =
    five 0x8da6d90754fbefc132ad682cef2906c1bd4679db := by decide +kernel

/-- Vector A2: `IV_FROM_AUX` true. -/
theorem test_g_aux : gDigest true (five 0x0123456789abcdeffedcba987654321000112233) [0x61, 0x62, 0x63] =
    five 0x2d4b0e3eb6a322d5155671e45a333826e1eedec9 := by decide +kernel

/-- Section 2.2: the state after step 0 of the empty block. -/
theorem test_g_step : gStep (initialRegs Config.initialConstants) 0 =
    ⟨0x9fb498b3, 0x67452301, 0x7bf36ae2, 0x98badcfe, 0x10325476⟩ := by decide

/-- Vector K3: bytes at `len` and beyond are ignored. -/
theorem test_compress_three : (nextOf (exec (.compress 3) dinK3)).map (·.digest) =
    some (five 0x0128339af5f02f6e943e780959909014831821c2) := by decide +kernel

/-- Vectors K6, K7: too long. -/
theorem test_compress_long : statusOf (exec (.compress 65) dinK3) = some 0x20 := by decide

/-! ### The generator -/

/-- Vectors B1 and B2. -/
theorem test_cfg_ends : (nextOf (exec (.cfg 160) State.reset)).map (·.sb) = some 160 ∧
    (nextOf (exec (.cfg 512) State.reset)).map (·.sb) = some 512 := by decide

/-- Vectors B3, B4 and B6. -/
theorem test_cfg_faults : statusOf (exec (.cfg 159) State.reset) = some 0x10 ∧
    statusOf (exec (.cfg 513) State.reset) = some 0x10 ∧
    statusOf (exec (.cfg 0xffffff) State.reset) = some 0x10 := by decide

/-- Vector B10: the seed `M` is legal. -/
theorem test_seed_modulus :
    (nextOf (exec .seed { configured 160 with din := valueWords 16 (2 ^ 160 - 1) })).map
      (fun t => (wordsValue t.z, statusWord t)) = some (2 ^ 160 - 1, 3) := by decide

/-- Vector B11: one too large. -/
theorem test_seed_range : statusOf (exec .seed { configured 160 with din := valueWords 16 (2 ^ 160) }) =
    some 0x51 := by decide

/-- Vector B9. -/
theorem test_seedrnd_sequence : statusOf (exec .seedrnd State.reset) = some 0x30 := by decide

/-- Rule R80: after `cfg 512`, `seedrnd` sets `SEEDED`; the draw is free and nothing is said of it. -/
theorem test_seedrnd_seeds : statusOf (exec .seedrnd (configured 512)) = some 3 := by decide

/-- Vector N2. -/
theorem test_gen_eight : (nextOf (exec (.gen 8) (seeded 160 0))).map (fun t => (t.out, wordsValue t.z)) =
    some ([false, false, false, false, false, true, false, true], 1) := by decide +kernel

/-- Vector N4: two steps, the second digest and the next accumulator. -/
theorem test_gen_two_steps : (nextOf (exec (.gen 161) (seeded 160 0))).map
    (fun t => (t.out.length, t.prev, wordsValue t.z)) =
    some (161, five 0x103e8a072a7075f810426e394b58ac70183799b8,
      0x0568191e75349123f6ee1055e3500dc021ee4def) := by decide +kernel

/-- Trace S4: 21 bytes for `SB = 161`. -/
theorem test_step_161 : stepDigest (seeded 161 1) = five 0xddb6d4862b04e07a429688e6aa5510ea6e065608 := by
  decide +kernel

/-- Trace S3: the sum equals `M` and wraps to zero. -/
theorem test_step_wraps : nextZ (seeded 160 (2 ^ 160 - 2)) = 0 := by decide

/-- Trace S7: two reductions. -/
theorem test_step_wraps_twice :
    nextZ { seeded 160 (2 ^ 160 - 2) with prev := five (2 ^ 160 - 1) } = 0 := by decide

/-! ### Control commands and dropped commands -/

/-- Vectors T2 and T4. -/
theorem test_clrerr_reset : statusOf (exec .clrerr (pendingFault .validation)) = some 0 ∧
    (nextOf (exec .reset { seeded 160 5 with err := .sequence, out := [true] })).map
      (fun t => (statusWord t, wordsValue t.z, t.out)) = some (0, 0, [true]) := by decide

/-- Vector T5: every other word is dropped. -/
theorem test_dropped :
    [0x00000000, 0x010000a0, 0x04000008, 0x05000000, 0x08000000].map
      (fun w => nextOf (performCommand w (pendingFault .invalidInputLength))) =
    List.replicate 5 (some (pendingFault .invalidInputLength)) := by decide

/-! ### The window (section 6) -/

theorem test_reads_refused :
    refusalOf (performRead 0x000 4 State.reset) = some .commandRead ∧
    refusalOf (performRead 0x00c 4 State.reset) = some .reservedOffset ∧
    refusalOf (performRead 0x084 4 State.reset) = some .reservedOffset ∧
    refusalOf (performRead 0x180 4 State.reset) = some .outsideWindow ∧
    refusalOf (performRead 0x102 4 State.reset) = some .misaligned ∧
    refusalOf (performRead 0x100 1 State.reset) = some .accessSize := by decide

theorem test_writes_refused :
    refusalOf (performWrite 0x004 4 1 State.reset) = some .readOnlyRegister ∧
    refusalOf (performWrite 0x140 4 1 State.reset) = some .readOnlyRegister := by decide

theorem test_window_ends : (nextOf (performRead 0x17c 4 (seeded 160 0x21ee4def))).map (·.answers) =
    some [0x21ee4def] ∧ (nextOf (performRead 0x004 4 { State.reset with build := ⟨true, 0⟩ })).map
      (·.answers) = some [0x100] := by decide

/-- Section 6: write then read `DIN[0]`. -/
theorem test_din_write : (nextOf (performWrite 0x100 4 0x61626300 State.reset)).map (fun t => t.din[0]) =
    some 0x61626300 := by decide

/-! ### The host's side (R51 to R55) -/

/-- Rule R55, with whitespace and both letter cases. -/
theorem test_parse_aux :
    parseAux "01234567 89abcdef FEDCBA98 76543210 00112233".toList
      = .ok 0x0123456789abcdeffedcba987654321000112233 ∧
    parseAux "0123".toList = .error .validation := by decide

/-- Rules R51 and R52: lines of program P3 and P2. -/
theorem test_assembler :
    parseLine "  gen 0x10 ; not configured".toList = some [.command (.gen 16)] ∧
    parseLine "wr DIN[15], 0x00000001".toList = some [.wr (.din 15) 1] ∧
    parseLine "gen 0".toList = none ∧ parseLine "rd Z[16]".toList = none ∧
    parseLine "; only a comment".toList = some [] := by decide

/-! ### Witnesses: states and operands that meet the hypotheses of the statements -/

theorem witness_DecodeEncodeRoundTrip : (Instr.gen 1).WF ∧ (Instr.gen 0xffffff).WF ∧ Instr.reset.WF := by
  decide

theorem witness_DecodedWordIsItsEncoding : decode 0x04ffffff = .ok (.gen 0xffffff) := by decide

/-- Each clause of R48 at its edges. -/
theorem witness_ReservedEncodings : (∃ r, decode 0x08000000 = .error r) ∧
    (∃ r, decode 0x07000001 = .error r) ∧ (∃ r, decode 0x04000000 = .error r) ∧
    State.reset.err = .none ∧ (pendingFault .badCommand).err ≠ .none :=
  ⟨⟨_, rfl⟩, ⟨_, rfl⟩, ⟨_, rfl⟩, rfl, by decide⟩

theorem witness_StepRunsDecodedCommand :
    let s := { State.reset with pending := [.write 0 4 0x010000a0, .hardReset] }
    s.build.wf ∧ s.pending = .write s.build.base 4 0x010000a0 :: [.hardReset] ∧
      decode 0x010000a0 = .ok (.cfg 160) := by decide

theorem witness_StepPerformsNextEvent : State.reset.pending = [] ∧
    ({ State.reset with pending := [.read 4 4] } : State).pending = .read 4 4 :: [] := by decide

theorem witness_PlacedCommandRunsNext : State.reset.build.wf ∧ 0xffffffff < 2 ^ 32 := by decide

theorem witness_CommandDispatch : State.reset.build.wf ∧ (pendingFault .sequence).build.wf ∧
    (pendingFault .sequence).err ≠ .none := by decide

theorem witness_RefusedAccesses : ({ State.reset with build := ⟨true, 0x200⟩ } : State).build.wf := by decide

theorem witness_ReadReturnsRegister : State.reset.build.wf ∧ Reg.z 15 ≠ .cmd ∧ Reg.status ≠ .cmd := by decide

theorem witness_WindowWrites : State.reset.build.wf := by decide

theorem witness_StagingWriteFrame : (∃ t, writeReg (.aux 4) 7 State.reset = .next t) ∧
    (∃ t, writeReg (.din 15) 7 State.reset = .next t) ∧ Reg.din 14 ≠ .din 15 :=
  ⟨⟨_, rfl⟩, ⟨_, rfl⟩, by decide⟩

theorem witness_ArrayValueBigEndian : 2 ^ 160 - 1 < 2 ^ (32 * 5) ∧ 0 < 2 ^ (32 * 0) := by decide

theorem witness_DinBytesLeftAligned : 64 ≤ 64 ∧ 0 ≤ 64 ∧ (63 : Fin 64).val < 64 := by decide

/-- Vector G15's length, and the longest block. -/
theorem witness_CompressionFunction : 64 < (List.replicate 65 (0 : Byte)).length ∧
    ¬64 < (List.replicate 64 (0 : Byte)).length := by decide

/-- Vectors G1 and G11: blocks that differ in `W[15]` only. -/
theorem witness_OneWordChangesDigest :
    let x : List Byte := []
    let y : List Byte := List.replicate 63 0 ++ [1]
    x.length ≤ 64 ∧ y.length ≤ 64 ∧ (blockWords (padBlock x))[15]? ≠ (blockWords (padBlock y))[15]? ∧
      ∀ j, j ≠ 15 → (blockWords (padBlock x))[j]? = (blockWords (padBlock y))[j]? := by
  refine ⟨by decide +kernel, by decide +kernel, by decide +kernel, fun j hj => ?_⟩
  by_cases h : j < 16
  · exact (show ∀ k : Fin 16, k.val ≠ 15 → (blockWords (padBlock []))[k.val]? =
      (blockWords (padBlock (List.replicate 63 0 ++ [1])))[k.val]? by decide +kernel) ⟨j, h⟩ hj
  · rw [List.getElem?_eq_none, List.getElem?_eq_none]
    · rw [blockWords_length (n := 16) (by decide +kernel)]; omega
    · rw [blockWords_length (n := 16) (by decide +kernel)]; omega

theorem witness_TrailingZerosIgnored : ([] : List Byte).length + 64 ≤ 64 := by decide

theorem witness_DigestBitsMsbFirst : 0 < 160 ∧ 159 < 160 := by decide

/-- Both ends of R75, and the sizes just outside. -/
theorem witness_CfgConstructs : State.reset.err = .none ∧ (159 : Imm).toNat < 160 ∧
    160 ≤ (160 : Imm).toNat ∧ (512 : Imm).toNat ≤ 512 ∧ 512 < (513 : Imm).toNat := by decide

theorem witness_SeedLoadsDin : State.reset.err = .none ∧ State.reset.configured = false ∧
    (configured 512).err = .none ∧ (configured 512).sb = 512 ∧
    2 ^ (configured 160).sb.toNat ≤ wordsValue (valueWords 16 (2 ^ 160)) ∧
    wordsValue (valueWords 16 (2 ^ 160 - 1)) < 2 ^ (configured 160).sb.toNat := by decide

theorem witness_SeedrndLoadsDraw : State.reset.err = .none ∧ State.reset.configured = false ∧
    (configured 512).err = .none ∧ (configured 512).configured = true ∧
    (configured 512).sb.toNat ≤ 512 := by decide

theorem witness_SeedrndTakesFreshDraw : (configured 160).err = .none ∧
    (configured 160).configured = true ∧ (configured 160).sb.toNat ≤ 512 := by decide

theorem witness_GenEmitsDigestStream : (seeded 160 0).err = .none ∧ (1 : Imm) ≠ 0 ∧
    ((seeded 160 0).configured = true ∧ (seeded 160 0).seeded = true) ∧
    ¬((configured 160).configured = true ∧ (configured 160).seeded = true) := by decide

theorem witness_GeneratorStep : 160 ≤ (seeded 160 0).sb.toNat ∧ (seeded 512 0).sb.toNat ≤ 512 ∧
    160 ≤ (seeded 512 0).sb.toNat ∧ (seeded 160 0).sb.toNat ≤ 512 := by decide

/-- `Z = M` and `Z = M - 1`. -/
theorem witness_CandidateReduction : 160 ≤ (seeded 160 (2 ^ 160 - 1)).sb.toNat ∧
    wordsValue (seeded 160 (2 ^ 160 - 1)).z = 2 ^ 160 - 1 ∧
    wordsValue (seeded 160 (2 ^ 160 - 2)).z < 2 ^ 160 - 1 := by decide

theorem witness_CandidateSerialised : 160 ≤ (seeded 161 1).sb.toNat ∧ (seeded 161 1).sb.toNat ≤ 512 ∧
    ∃ b, (serializedZ (seeded 161 1))[0]? = some b := ⟨by decide, by decide, _, List.getElem?_eq_getElem (by rw [serializedZ_length]; decide)⟩

/-- The clauses of R92: `SB` above 160, `SB = 160`, a sum of `M` and a sum of `2M`. -/
theorem witness_SumBounds : 160 < (seeded 161 0).sb.toNat ∧ (seeded 160 0).sb.toNat = 160 ∧
    1 + zCandidate (seeded 160 (2 ^ 160 - 2)) + wordsValue (seeded 160 0).prev = 2 ^ 160 - 1 ∧
    1 + zCandidate (seeded 160 (2 ^ 160 - 2)) + wordsValue (five (2 ^ 160 - 1)) = 2 * (2 ^ 160 - 1) := by
  decide

theorem witness_CompressWritesDigest : State.reset.err = .none ∧ (64 : Imm).toNat ≤ 64 ∧
    (0 : Imm).toNat ≤ 64 ∧ 64 < (65 : Imm).toNat := by decide

/-- Words of both kinds: a GEN that generates, and one that is no GEN. -/
theorem witness_ResetDuringCommand : (decode 0x04000008 = .ok (.gen 8) ∧
    ∃ t, exec (.gen 8) (seeded 160 0) = .next t) ∧ ∀ c, decode 0x02000000 ≠ .ok (.gen c) :=
  ⟨⟨by decide, exists_next (by decide)⟩,
    fun c h => Instr.noConfusion (Except.ok.inj ((by decide : decode 0x02000000 = .ok .seed).symm.trans h))⟩

theorem witness_OutOnlyGrows : ∃ t, step { seeded 160 0 with pending := [.write 0 4 0x04000001] } = .next t :=
  exists_next (by decide)

/-- Each code is raised, and ERR is cleared by CLRERR and by RESET. -/
theorem witness_ErrorCodes :
    (nextOf (exec (.cfg 0) State.reset)).map (·.err) = some .validation ∧
    (nextOf (exec (.compress 65) State.reset)).map (·.err) = some .invalidInputLength ∧
    (nextOf (exec (.gen 1) (configured 160))).map (·.err) = some .sequence ∧
    (nextOf (exec .seed { configured 160 with din := valueWords 16 (2 ^ 160) })).map (·.err) =
      some .seedRange ∧
    (nextOf (performCommand 0xff000000 State.reset)).map (·.err) = some .badCommand ∧
    (nextOf (exec .clrerr (pendingFault .sequence))).map (·.err) = some .none ∧
    (nextOf (exec .reset (pendingFault .sequence))).map (·.err) = some .none := by decide

theorem witness_OwnFaults : State.reset.err = .none ∧ State.reset.configured = false ∧
    decode 0x04000001 = .ok (.gen 1) ∧ (configured 160).seeded = false ∧
    decode 0x08000000 = .error (.opcode 8) ∧ (configured 160).configured = true ∧
    2 ^ (configured 160).sb.toNat ≤ wordsValue (valueWords 16 (2 ^ 160)) := by decide

theorem witness_FaultWritesOnlyErr :
    nextOf (performCommand 0x0100009f State.reset) = some (pendingFault .validation) ∧
      (pendingFault .validation).err ≠ .none ∧ (pendingFault .validation).err ≠ State.reset.err := by
  decide

theorem witness_FaultsAreSticky : (pendingFault .sequence).err ≠ .none ∧
    (0x010000a0 : Word) ≠ 0x06000000 ∧ (0x010000a0 : Word) ≠ 0x07000000 ∧
    (pendingFault .sequence).build.wf ∧
    readReg (pendingFault .sequence) .status = some 0x30 := by decide

/-- R107's own two orderings: reserved before Sequence, Sequence before SeedRange. -/
theorem witness_FaultPriority :
    statusOf (performCommand 0x02000001 State.reset) = some 0x40 ∧
    statusOf (performCommand 0x02000000 { State.reset with din := valueWords 16 (2 ^ 200) }) = some 0x30 ∧
    statusOf (performCommand 0x01000064 State.reset) = some 0x10 ∧
    statusOf (performCommand 0x010000a0 State.reset) = some 0x01 ∧
    statusOf (performCommand 0x010000a0 (pendingFault .sequence)) = some 0x30 := by decide

theorem witness_ClrerrUndoesFault : State.reset.err = .none ∧
    nextOf (performCommand 0x08000000 State.reset) = some (pendingFault .badCommand) ∧
    (pendingFault .badCommand).err ≠ .none := by decide

theorem witness_FaultsDoNotNest : (pendingFault .badCommand).err ≠ .none ∧
    nextOf (performCommand 0x08000000 (pendingFault .badCommand)) = some (pendingFault .badCommand) ∧
    nextOf (performCommand 0x06000000 (pendingFault .badCommand)) = some State.reset := by decide

theorem witness_CommandFrames : (∃ t, exec .nop State.reset = .next t) ∧
    (∃ t, exec (.cfg 160) State.reset = .next t) ∧ (∃ t, exec .seed (configured 160) = .next t) ∧
    (∃ t, exec .seedrnd (configured 160) = .next t) ∧ (∃ t, exec (.gen 1) (seeded 160 0) = .next t) ∧
    (∃ t, exec (.compress 3) State.reset = .next t) ∧ (∃ t, exec .clrerr State.reset = .next t) ∧
    (∃ t, exec .reset State.reset = .next t) :=
  ⟨exists_next (by decide), exists_next (by decide), exists_next (by decide),
    exists_next (by decide), exists_next (by decide), exists_next (by decide),
    exists_next (by decide), exists_next (by decide)⟩

theorem witness_WindowFrames : (∃ t, exec (.gen 1) (seeded 160 0) = .next t) ∧ Reg.din 0 ≠ .status ∧
    Reg.din 0 ≠ .cmd := ⟨exists_next (by decide), by decide, by decide⟩

theorem witness_BuildIsConstant : ∃ t, step { State.reset with pending := [.hardReset] } = .next t :=
  exists_next (by decide)

theorem witness_GenContinues : (seeded 160 0).err = .none ∧ (seeded 160 0).configured = true ∧
    (seeded 160 0).seeded = true ∧ (160 : Imm) ≠ 0 ∧ (1 : Imm) ≠ 0 ∧ (160 : Imm).toNat % 160 = 0 ∧
    (160 : Imm).toNat + (1 : Imm).toNat < 2 ^ 24 := by decide

/-- A count above `2^24 - 1` has a valid split. -/
theorem witness_SplitCounts : (seeded 160 0).err = .none ∧ (seeded 160 0).configured = true ∧
    (seeded 160 0).seeded = true ∧ ValidSplit (2 ^ 24) [16777120, 96] ∧ 1 ≤ 2 ^ 24 := by
  refine ⟨rfl, rfl, rfl, ⟨by decide, ?_, ?_⟩, by decide⟩ <;> decide

theorem witness_GenCountAndRange : (seeded 512 0).err = .none ∧ (seeded 512 0).configured = true ∧
    (seeded 512 0).seeded = true ∧ (0xffffff : Imm) ≠ 0 ∧ 160 ≤ (seeded 512 0).sb.toNat ∧
    (seeded 512 0).sb.toNat ≤ 512 := by decide

theorem witness_ZeroAndModulusCollide : 160 ≤ (seeded 160 0).sb.toNat ∧ (seeded 160 0).sb.toNat ≤ 512 ∧
    (seeded 160 0).err = .none ∧ (seeded 160 0).configured = true ∧ (seeded 160 0).seeded = true ∧
    (1 : Imm) ≠ 0 := by decide

theorem witness_Reproducibility : 160 ≤ (160 : Imm).toNat ∧ (160 : Imm).toNat ≤ 512 ∧
    (1 : BitVec 512).toNat < 2 ^ (160 : Imm).toNat ∧ (∀ c ∈ [(160 : Imm), 8], c ≠ 0) ∧
    State.reset.build.wf ∧ State.reset.build.ivFromAux = false ∧ State.reset.err = .none := by
  refine ⟨by decide, by decide, by decide +kernel, by simp, by decide, rfl, rfl⟩

/-- The reset state meets the invariant, and a step leaves it. -/
theorem witness_InvariantKept : Inv State.reset ∧
    ∃ t, step (State.reset.withFetchWord 32 0x010000a0) = .next t :=
  ⟨⟨by decide, by decide, by decide, by decide, by decide, by decide⟩, exists_next (by decide)⟩

/-- A state in the middle of a stream, `PREV` not zero, meets both. -/
theorem witness_PrevStaysDigest :
    Inv (genStep (seeded 160 0)) ∧ PrevIsDigest (genStep (seeded 160 0)) ∧
    wordsValue (genStep (seeded 160 0)).prev ≠ 0 ∧ ∃ t, step (genStep (seeded 160 0)) = .next t := by
  have hz : wordsValue (genStep (seeded 160 0)).z = 1 := by decide +kernel
  refine ⟨⟨fun _ => rfl, nofun, fun _ => by decide, fun _ => ?_, fun _ _ => ?_, nofun⟩,
    .inr ⟨rfl, 0, Vector.replicate 5 0, by decide, by decide +kernel, ?_⟩, by decide +kernel, ⟨_, rfl⟩⟩
  · rw [hz]; decide
  · rw [hz]; decide
  · rw [hz]; decide +kernel

theorem witness_PseudoInstructions : State.reset.build.wf ∧ State.reset.pending = [] ∧
    (List.replicate 64 (0xff : Byte)).length ≤ 64 := by decide

theorem witness_AuxText : (List.replicate 39 'a').filter (fun c => !isSpace c) = List.replicate 39 'a' ∧
    hexDigit 'g' = none := by decide

theorem witness_HostCompression : State.reset.build.wf ∧ State.reset.err = .none ∧
    ∃ d, compressG State.reset.build.ivFromAux (valueWords 5 (0 : BitVec 160).toNat) [0x61] = .ok d :=
  ⟨by decide, rfl, _, compressG_of_le (by decide)⟩

end Sys2Proof.Tests
end

/-! The build parameters (spec/00_scope.md R4, spec/10_state.md R17): no command and no step writes
`State.build`. -/

namespace Sys2Proof.Machine

@[simp] theorem generate_build (count : Nat) (s : State) : (generate count s).build = s.build := by
  rw [generate_frame]

/-- No command has `build` among its writes (R4). -/
theorem exec_build {i : Instr} {s t : State} (h : exec i s = .next t) : t.build = s.build := by
  cases exec_next h with
  | unchanged h | fault _ _ _ h | cleared _ h | wasReset _ h | configured _ _ _ _ h | seeded _ _ _ _ h
  | drawn _ _ _ h | generated _ _ _ _ _ h | compressed _ _ _ _ h => simp [h]

theorem step_build {s t : State} (h : step s = .next t) : t.build = s.build :=
  step_keeps (fun u => u.build = s.build)
    (hpending := fun _ _ hu => hu) (hanswer := fun _ _ hu => hu) (haux := fun _ _ _ hu => hu)
    (hdin := fun _ _ _ hu => hu) (hbad := fun _ hu => hu)
    (hexec := fun _ _ _ hu hx => (exec_build hx).trans hu)
    (hreset := fun _ hu => hu) (hemit := fun _ _ hu => hu) (hdraw := fun _ hu => hu) rfl h

/-- Settles O49: every event of a step keeps `build`, the commands by `exec_build`. -/
theorem buildIsConstant : Obligations.BuildIsConstant :=
  fun _ _ => step_build

end Sys2Proof.Machine

/-! The invariant of R26: one induction over steps for the properties of the generator's registers, then
each item's preservation by the four writes that reach those registers. -/

namespace Sys2Proof.Machine

/-- `t` agrees with `s` on the generator's registers and flags, those of R26, and on the build. -/
def SameGenerator (s t : State) : Prop :=
  t = { s with aux := t.aux, din := t.din, digest := t.digest, err := t.err, out := t.out,
               draws := t.draws, pending := t.pending, answers := t.answers }

/-- Z after SEEDRND is below `2 ^ SB`, whatever `SB` (R80). -/
theorem wordsValue_entropySeed_lt (s : State) :
    wordsValue (valueWords 16 (entropySeed s)) < 2 ^ s.sb.toNat := by
  rw [wordsValue_valueWords]
  exact (Nat.mod_le _ _).trans_lt (entropySeed_lt s)

section GeneratorProperty

variable {P : State → Prop} (hframe : ∀ s t, SameGenerator s t → P s → P t)
  (hreset : ∀ s, P s → P s.resetRegisters)
  (hconfigure : ∀ s n, 160 ≤ n ∧ n ≤ 512 → P s → P (s.configure (BitVec.ofNat 10 n)))
  (hload : ∀ s z, s.configured = true → wordsValue z < 2 ^ s.sb.toNat → P s → P (s.loadSeed z))
  (hstep : ∀ s, s.configured = true → s.seeded = true → P s → P (genStep s))

include hframe hstep in
/-- A property of the generator's registers that one iteration keeps is kept by a whole GEN (R87). -/
theorem generate_keeps_of_genStep (count : Nat) {s : State}
    (hc : s.configured = true ∧ s.seeded = true) (h : P s) : P (generate count s) := by
  obtain ⟨-, -, ht⟩ := genLoop_induction
    (fun u => u.configured = true ∧ u.seeded = true ∧ P u)
    (fun _ _ ⟨hc, hs, hu⟩ => ⟨hc, hs, hframe _ _ rfl hu⟩)
    (fun u ⟨hc, hs, hu⟩ => ⟨hc, hs, hstep u hc hs hu⟩)
    (steps := stepCount count) (count := count) ⟨hc.1, hc.2, h⟩
  exact ht

include hframe hreset hconfigure hload hstep

theorem exec_keeps_of_generator {i : Instr} {s t : State} (h : P s) (hx : exec i s = .next t) :
    P t := by
  cases exec_next hx with
  | unchanged ht => exact ht ▸ h
  | fault c _ _ ht => exact ht ▸ hframe _ _ rfl h
  | cleared _ ht => exact ht ▸ hframe _ _ rfl h
  | wasReset _ ht => exact ht ▸ hreset s h
  | configured n _ _ hn ht => exact ht ▸ hconfigure s n.toNat hn h
  | seeded _ _ hc hr ht => exact ht ▸ hload s s.din hc hr h
  | drawn _ _ hc ht => exact ht ▸ hframe _ _ rfl (hload s _ hc (wordsValue_entropySeed_lt s) h)
  | generated c _ _ _ hc ht => exact ht ▸ generate_keeps_of_genStep hframe hstep c.toNat hc h
  | compressed _ _ _ _ ht => exact ht ▸ hframe _ _ rfl h

/-- A property of the generator's registers is kept by every step, whatever the event, if a reset, CFG,
a seeding and one iteration of GEN keep it: nothing else writes those registers. -/
theorem step_keeps_of_generator {s t : State} (h : P s) (hs : step s = .next t) : P t :=
  step_keeps P (hpending := fun _ _ => hframe _ _ rfl) (hanswer := fun _ _ => hframe _ _ rfl)
    (haux := fun _ _ _ => hframe _ _ rfl) (hdin := fun _ _ _ => hframe _ _ rfl)
    (hbad := fun _ => hframe _ _ rfl)
    (hexec := fun _ _ _ => exec_keeps_of_generator hframe hreset hconfigure hload hstep)
    (hreset := hreset) (hemit := fun _ _ => hframe _ _ rfl) (hdraw := fun _ => hframe _ _ rfl) h hs

end GeneratorProperty

/-! ### Items 1 to 5 -/

theorem inv_of_sameGenerator (s t : State) (ht : SameGenerator s t) (h : Inv s) : Inv t := by
  rw [ht]
  exact ⟨h.seeded_configured, h.unconfigured_clear, h.sb_range, h.z_range, h.z_stepped,
    h.unseeded_clear⟩

theorem inv_resetRegisters (s : State) : Inv s.resetRegisters where
  seeded_configured := nofun
  unconfigured_clear _ := ⟨rfl, wordsValue_zero 16, wordsValue_zero 5, wordsValue_zero 5⟩
  sb_range := nofun
  z_range := nofun
  z_stepped := nofun
  unseeded_clear _ := ⟨wordsValue_zero 16, wordsValue_zero 5⟩

theorem inv_configure (s : State) (n : Nat) (hn : 160 ≤ n ∧ n ≤ 512) :
    Inv (s.configure (BitVec.ofNat 10 n)) where
  seeded_configured _ := rfl
  unconfigured_clear := nofun
  sb_range _ := by simp only [State.configure_sb, BitVec.toNat_ofNat]; omega
  z_range _ := (wordsValue_zero 16).trans_lt (Nat.two_pow_pos _)
  z_stepped _ hp := absurd (wordsValue_zero 5) hp
  unseeded_clear _ := ⟨wordsValue_zero 16, wordsValue_zero 5⟩

theorem inv_loadSeed (s : State) (z : Words 16) (hc : s.configured = true)
    (hz : wordsValue z < 2 ^ s.sb.toNat) (h : Inv s) : Inv (s.loadSeed z) where
  seeded_configured _ := hc
  unconfigured_clear hn := absurd (hc.symm.trans hn) (by decide)
  sb_range := h.sb_range
  z_range _ := hz
  z_stepped _ hp := absurd (wordsValue_zero 5) hp
  unseeded_clear := nofun

/-- A value below `M` in `Z` keeps the invariant, whatever goes to `PREV`. -/
theorem inv_advance {s : State} {z : Words 16} (p : Words 5) (hc : s.configured = true)
    (hs : s.seeded = true) (hz : wordsValue z < modulus s.sb) (h : Inv s) :
    Inv (s.advance z p) where
  seeded_configured := h.seeded_configured
  unconfigured_clear hn := absurd (hc.symm.trans hn) (by decide)
  sb_range := h.sb_range
  z_range _ := hz.trans (modulus_lt s.sb)
  z_stepped _ _ := hz
  unseeded_clear hn := absurd (hs.symm.trans hn) (by decide)

/-- An iteration leaves `Z` reduced mod `M` (R84), and the range of `SB` makes `M` positive. -/
theorem inv_genStep (s : State) (hc : s.configured = true) (hs : s.seeded = true) (h : Inv s) :
    Inv (genStep s) := by
  obtain ⟨hlo, hhi⟩ := h.sb_range hc
  exact inv_advance (stepDigest s) hc hs ((wordsValue_genStep_z hlo hhi).trans_lt (nextZ_lt hlo)) h

/-- Settles O56: of the writes that reach the generator's registers, a reset and CFG establish the
invariant, and a seeding and an iteration of GEN keep it. -/
theorem invariantKept : Obligations.InvariantKept := fun _ _ =>
  step_keeps_of_generator inv_of_sameGenerator (fun s _ => inv_resetRegisters s)
    (fun s n hn _ => inv_configure s n hn) inv_loadSeed inv_genStep

/-! ### Item 6 -/

theorem prevIsDigest_of_sameGenerator (s t : State) (ht : SameGenerator s t) (h : PrevIsDigest s) :
    PrevIsDigest t := by
  rw [ht]
  exact h

theorem prevIsDigest_of_prev_zero {s : State} (h : s.prev = Vector.replicate 5 0) :
    PrevIsDigest s :=
  .inl ((wordsValue_eq_zero_iff _).2 h)

/-- The digest of a candidate below `M`, written with the sum of the same step (R83, R84). -/
theorem prevIsDigest_advance {s : State} {zc : Nat} {q : Words 5} {z : Words 16}
    (hc : s.configured = true) (hzc : zc < modulus s.sb)
    (hz : wordsValue z = (1 + zc + wordsValue q) % modulus s.sb) :
    PrevIsDigest
      (s.advance z (gDigest s.build.ivFromAux s.caux (beBytes zc (serialLength s.sb)))) :=
  .inr ⟨hc, zc, q, hzc, rfl, hz⟩

/-- The witnesses are the candidate of the iteration and the `PREV` it found (R82, R84). -/
theorem prevIsDigest_genStep (s : State) (hc : s.configured = true) (h : Inv s) :
    PrevIsDigest (genStep s) := by
  obtain ⟨hlo, hhi⟩ := h.sb_range hc
  exact prevIsDigest_advance hc (zCandidate_lt hlo) (wordsValue_genStep_z hlo hhi)

/-- Settles O57, together with the invariant: an iteration needs the range of `SB` to have a candidate
below `M`, and every other write of `PREV` clears it. -/
theorem prevStaysDigest : Obligations.PrevStaysDigest := fun _ _ hi hp hs =>
  (step_keeps_of_generator (P := fun u => Inv u ∧ PrevIsDigest u)
    (hframe := fun _ _ ht ⟨hi, hp⟩ =>
      ⟨inv_of_sameGenerator _ _ ht hi, prevIsDigest_of_sameGenerator _ _ ht hp⟩)
    (hreset := fun s _ => ⟨inv_resetRegisters s, prevIsDigest_of_prev_zero rfl⟩)
    (hconfigure := fun s n hn _ => ⟨inv_configure s n hn, prevIsDigest_of_prev_zero rfl⟩)
    (hload := fun s z hc hz ⟨hi, _⟩ => ⟨inv_loadSeed s z hc hz hi, prevIsDigest_of_prev_zero rfl⟩)
    (hstep := fun s hc hse ⟨hi, _⟩ => ⟨inv_genStep s hc hse hi, prevIsDigest_genStep s hc hi⟩)
    ⟨hi, hp⟩ hs).2

end Sys2Proof.Machine

/-! The fields of `STATUS` (spec/10_state.md R17) and the reset values (R28). -/

namespace Sys2Proof.Machine

/-- Each bit of `STATUS` is a bit of the field that covers it. -/
theorem statusWord_getLsbD (s : State) (k : Nat) :
    (statusWord s).getLsbD k =
      if k = 0 then s.configured else if k = 1 then s.seeded else if k < 4 then false
      else if k < 8 then s.err.code.getLsbD (k - 4)
      else if k = 8 then s.build.ivFromAux else false := by
  unfold statusWord
  -- the width as the sum of the fields' widths, without which `getLsbD_append` does not apply
  change BitVec.getLsbD (w := 23 + 1 + 4 + 2 + 1 + 1) _ k = _
  simp only [BitVec.getLsbD_append, BitVec.getLsbD_ofBool, Nat.sub_sub]
  grind

/-- Settles O15: every bit asked for lies in one branch of `statusWord_getLsbD`. -/
theorem statusLayout : Obligations.StatusLayout := by
  intro s
  refine ⟨statusWord_getLsbD s 0, statusWord_getLsbD s 1, ?_, ?_, statusWord_getLsbD s 8, ?_⟩
  · ext k hk
    rw [BitVec.getElem_extractLsb', statusWord_getLsbD]
    grind
  · ext k hk
    rw [BitVec.getElem_extractLsb', statusWord_getLsbD]
    grind
  · ext k hk
    rw [BitVec.getElem_extractLsb', statusWord_getLsbD]
    grind

/-- The power-on state is a reset of itself, so what is said of `resetRegisters` holds of it. -/
theorem State.reset_resetRegisters : State.reset.resetRegisters = State.reset := rfl

theorem statusWord_resetRegisters (s : State) :
    statusWord s.resetRegisters = if s.build.ivFromAux then 0x00000100 else 0x00000000 := by
  simp only [statusWord, State.resetRegisters_build, State.resetRegisters_err,
    State.resetRegisters_seeded, State.resetRegisters_configured]
  cases s.build.ivFromAux <;> decide

/-- Settles O37: both resets are `resetRegisters`, whose writes are the table of R28. -/
theorem resetValues : Obligations.ResetValues := by
  unfold Obligations.ResetValues
  intro clear
  have hclear (s : State) : clear s.resetRegisters :=
    ⟨wordsValue_zero 5, wordsValue_zero 16, rfl, wordsValue_zero 5, wordsValue_zero 16,
      wordsValue_zero 5, wordsValue_zero 5, rfl, rfl, rfl, statusWord_resetRegisters s⟩
  exact ⟨⟨State.reset_resetRegisters ▸ hclear State.reset, rfl⟩,
    fun s => ⟨s.resetRegisters, rfl, rfl, hclear s, rfl⟩⟩

/-- Settles O55: the power-on state is a reset state, and its `PREV` is zero. -/
theorem invariantAtReset : Obligations.InvariantAtReset :=
  ⟨State.reset_resetRegisters ▸ inv_resetRegisters State.reset, prevIsDigest_of_prev_zero rfl⟩

end Sys2Proof.Machine

/-! Where the register window answers (spec/20_memory.md R31, R35): with a legal `BASE`, an access
reaches the register `r` exactly when it has 4 bytes at `BASE + r.offset`, so what R35 refuses is a
matter of offsets. -/

namespace Sys2Proof.Machine

/-! ### Commands complete (R138) -/

/-- No reason to fault exists, so an answer that is no next state is a refusal. -/
theorem refused_iff_not_next (r : Result) : (∃ ρ, r = .refused ρ) ↔ ¬∃ t, r = .next t := by
  cases r with
  | next s => simp
  | fault f => cases f
  | refused ρ => simp

theorem ite_completes (c : Prop) [Decidable c] {p q : Result} (hp : ∃ t, p = .next t)
    (hq : ∃ t, q = .next t) : ∃ t, (if c then p else q) = .next t := by
  split
  · exact hp
  · exact hq

theorem unlessPending_completes (s : State) {r : Result} (h : ∃ t, r = .next t) :
    ∃ t, unlessPending s r = .next t :=
  ite_completes _ h ⟨s, rfl⟩

theorem ifConfigured_completes (s : State) {r : Result} (h : ∃ t, r = .next t) :
    ∃ t, ifConfigured s r = .next t :=
  ite_completes _ h ⟨_, rfl⟩

theorem ifSeeded_completes (s : State) {r : Result} (h : ∃ t, r = .next t) :
    ∃ t, ifSeeded s r = .next t :=
  ite_completes _ h ⟨_, rfl⟩

theorem exec_completes (i : Instr) (s : State) : ∃ t, exec i s = .next t := by
  cases i with
  | nop => exact unlessPending_completes s ⟨_, rfl⟩
  | cfg n => exact unlessPending_completes s (ite_completes _ ⟨_, rfl⟩ ⟨_, rfl⟩)
  | seed =>
    exact unlessPending_completes s (ifConfigured_completes s (ite_completes _ ⟨_, rfl⟩ ⟨_, rfl⟩))
  | seedrnd => exact unlessPending_completes s (ifConfigured_completes s ⟨_, rfl⟩)
  | gen c =>
    exact unlessPending_completes s (ite_completes _ ⟨_, rfl⟩ (ifSeeded_completes s ⟨_, rfl⟩))
  | compress n => exact unlessPending_completes s (ite_completes _ ⟨_, rfl⟩ ⟨_, rfl⟩)
  | clrerr => exact ⟨_, rfl⟩
  | reset => exact ⟨_, rfl⟩

theorem performCommand_of_decode {w : Word} {i : Instr} (h : decode w = .ok i) (s : State) :
    performCommand w s = exec i s := by
  rw [performCommand, h]

theorem performCommand_of_reserved {w : Word} {r : Reserved} (h : decode w = .error r) (s : State) :
    performCommand w s = unlessPending s (raise .badCommand s) := by
  rw [performCommand, h]

theorem performCommand_completes (w : Word) (s : State) : ∃ t, performCommand w s = .next t := by
  cases h : decode w with
  | ok i => exact performCommand_of_decode h s ▸ exec_completes i s
  | error r => exact performCommand_of_reserved h s ▸ unlessPending_completes s ⟨_, rfl⟩

/-! ### The map (R31) -/

theorem regAt_offset (r : Reg) : regAt r.offset = some r := by
  cases r with
  | cmd | status | sb => rfl
  | aux j | caux j | prev j | digest j | din j | z j => revert j; decide

theorem offset_of_regAt {off : Nat} {r : Reg} (h : regAt off = some r) : off = r.offset := by
  unfold regAt at h
  repeat' split at h
  all_goals cases h
  iterate 3 · assumption
  all_goals exact arrayIndex_eq_some.1 ‹_›

theorem regAt_eq_some {off : Nat} {r : Reg} : regAt off = some r ↔ off = r.offset :=
  ⟨offset_of_regAt, fun h => h ▸ regAt_offset r⟩

/-- The last register of the window is `Z[15]`, at 0x17C (R30, R31). -/
theorem offset_lt_windowBytes (r : Reg) : r.offset < Config.windowBytes := by
  cases r <;> simp only [Reg.offset, Config.windowBytes] <;> omega

theorem offset_mod_four (r : Reg) : r.offset % 4 = 0 := by
  cases r <;> simp only [Reg.offset] <;> omega

/-- The clauses of R35 that do not ask for the direction, as one equation on the address. -/
theorem resolve_eq_ok {b : Build} (hb : b.wf) {addr size : Nat} {r : Reg} :
    resolve b addr size = .ok r ↔ size = 4 ∧ addr = b.base + r.offset := by
  have hlt := offset_lt_windowBytes r
  have hmod := offset_mod_four r
  rw [resolve_ok, regAt_eq_some]
  constructor
  · rintro ⟨hsize, -, hbase, -, hoff⟩
    exact ⟨hsize, by omega⟩
  · rintro ⟨hsize, rfl⟩
    exact ⟨hsize, by omega, by omega, by omega, by omega⟩

theorem resolve_offset {b : Build} (hb : b.wf) (r : Reg) :
    resolve b (b.base + r.offset) 4 = .ok r :=
  (resolve_eq_ok hb).2 ⟨rfl, rfl⟩

/-! ### The directions (R31) -/

/-- The registers marked W in R31. -/
def Reg.Writable (r : Reg) : Prop := r = .cmd ∨ (∃ j, r = .aux j) ∨ ∃ j, r = .din j

theorem readReg_isSome_iff (s : State) (r : Reg) : (∃ v, readReg s r = some v) ↔ r ≠ .cmd := by
  cases r <;> simp [readReg]

theorem writeReg_completes_iff (r : Reg) (v : Word) (s : State) :
    (∃ t, writeReg r v s = .next t) ↔ r.Writable := by
  cases r with
  | cmd => exact iff_of_true (performCommand_completes v s) (.inl rfl)
  | aux j => exact iff_of_true ⟨_, rfl⟩ (.inr (.inl ⟨j, rfl⟩))
  | din j => exact iff_of_true ⟨_, rfl⟩ (.inr (.inr ⟨j, rfl⟩))
  | status | sb | caux _ | prev _ | digest _ | z _ => simp [writeReg, Reg.Writable]

/-- Settles O10: the map by `regAt_eq_some`, the directions register by register. -/
theorem registerMap : Obligations.RegisterMap := by
  refine ⟨fun off r => ?_, readReg_isSome_iff, fun s r v => writeReg_completes_iff r v s⟩
  rw [regAt_eq_some]
  cases r <;> rfl

/-! ### Accesses -/

theorem performRead_of_readReg {s : State} (hb : s.build.wf) {r : Reg} {v : Word}
    (h : readReg s r = some v) : performRead (s.build.base + r.offset) 4 s = .next (s.answer v) := by
  simp only [performRead, resolve_offset hb, h]

theorem performWrite_offset {s : State} (hb : s.build.wf) (r : Reg) (v : Word) :
    performWrite (s.build.base + r.offset) 4 v s = writeReg r v s := by
  simp only [performWrite, resolve_offset hb]

theorem performRead_completes_iff {s : State} (hb : s.build.wf) (addr size : Nat) :
    (∃ t, performRead addr size s = .next t) ↔
      size = 4 ∧ ∃ r : Reg, r ≠ .cmd ∧ addr = s.build.base + r.offset := by
  constructor
  · rintro ⟨t, ht⟩
    obtain ⟨r, v, hr, hv, -⟩ := performRead_next ht
    obtain ⟨hsize, haddr⟩ := (resolve_eq_ok hb).1 hr
    exact ⟨hsize, r, (readReg_isSome_iff s r).1 ⟨v, hv⟩, haddr⟩
  · rintro ⟨rfl, r, hr, rfl⟩
    obtain ⟨v, hv⟩ := (readReg_isSome_iff s r).2 hr
    exact ⟨_, performRead_of_readReg hb hv⟩

theorem performWrite_completes_iff {s : State} (hb : s.build.wf) (addr size : Nat) (v : Word) :
    (∃ t, performWrite addr size v s = .next t) ↔
      size = 4 ∧ ∃ r : Reg, r.Writable ∧ addr = s.build.base + r.offset := by
  constructor
  · rintro ⟨t, ht⟩
    cases hr : resolve s.build addr size with
    | error ρ => simp [performWrite, hr] at ht
    | ok r =>
      obtain ⟨hsize, haddr⟩ := (resolve_eq_ok hb).1 hr
      simp only [performWrite, hr] at ht
      exact ⟨hsize, r, (writeReg_completes_iff r v s).1 ⟨t, ht⟩, haddr⟩
  · rintro ⟨rfl, r, hr, rfl⟩
    rw [performWrite_offset hb]
    exact (writeReg_completes_iff r v s).2 hr

/-! ### The refused accesses (R35) -/

theorem exists_element_iff {n base first addr : Nat} :
    (∃ j : Fin n, addr = base + (first + 4 * j.val)) ↔
      base + first ≤ addr ∧ addr < base + first + 4 * n ∧ (addr - (base + first)) % 4 = 0 := by
  constructor
  · rintro ⟨j, rfl⟩
    omega
  · rintro ⟨hlo, hhi, hmod⟩
    exact ⟨⟨(addr - (base + first)) / 4, by omega⟩, by simp only; omega⟩

theorem Reg.forall_iff {P : Reg → Prop} :
    (∀ r, P r) ↔ P .cmd ∧ P .status ∧ P .sb ∧ (∀ j, P (.aux j)) ∧ (∀ j, P (.caux j)) ∧
      (∀ j, P (.prev j)) ∧ (∀ j, P (.digest j)) ∧ (∀ j, P (.din j)) ∧ ∀ j, P (.z j) :=
  ⟨fun h => ⟨h _, h _, h _, fun _ => h _, fun _ => h _, fun _ => h _, fun _ => h _, fun _ => h _,
    fun _ => h _⟩, fun h r => by cases r <;> simp only [h]⟩

theorem Reg.exists_iff {P : Reg → Prop} :
    (∃ r, P r) ↔ P .cmd ∨ P .status ∨ P .sb ∨ (∃ j, P (.aux j)) ∨ (∃ j, P (.caux j)) ∨
      (∃ j, P (.prev j)) ∨ (∃ j, P (.digest j)) ∨ (∃ j, P (.din j)) ∨ ∃ j, P (.z j) := by
  rw [← not_iff_not]
  simp only [not_exists, not_or]
  exact Reg.forall_iff

/-- Settles O11: an access that is not refused has 4 bytes at a register of its direction, and the
offsets of those registers are the ranges that the clauses of R35 leave over. -/
theorem refusedAccesses : Obligations.RefusedAccesses := by
  unfold Obligations.RefusedAccesses
  intro s addr size v hb off outside reserved bad writable
  rw [refused_iff_not_next, refused_iff_not_next, performRead_completes_iff hb,
    performWrite_completes_iff hb]
  constructor
  · simp only [Reg.exists_iff, Reg.offset, ne_eq, reduceCtorEq, not_true_eq_false,
      not_false_eq_true, false_and, true_and, false_or, exists_element_iff]
    omega
  · simp only [Reg.exists_iff, Reg.offset, Reg.Writable, reduceCtorEq, Reg.aux.injEq, Reg.din.injEq,
      exists_eq', exists_false, or_true, or_false, false_and, true_and, false_or,
      exists_element_iff]
    omega

/-! ### Reads (R33) -/

@[simp] theorem readReg_answer (s : State) (v : Word) (r : Reg) :
    readReg (s.answer v) r = readReg s r := rfl

/-- A performed read leaves every register as it was, so the next one answers the same. -/
theorem performRead_twice {s : State} (hb : s.build.wf) {r : Reg} {v : Word}
    (h : readReg s r = some v) :
    andThen (performRead (s.build.base + r.offset) 4 s) (performRead (s.build.base + r.offset) 4)
      = .next ((s.answer v).answer v) := by
  rw [performRead_of_readReg hb h]
  exact performRead_of_readReg (s := s.answer v) hb ((readReg_answer s v r).trans h)

/-- Settles O12: the value asked for is the one `readReg` shows. -/
theorem readReturnsRegister : Obligations.ReadReturnsRegister := by
  unfold Obligations.ReadReturnsRegister
  intro s r hb hr v
  have hv : readReg s r = some v := by
    cases r with
    | cmd => exact absurd rfl hr
    | status | sb | aux _ | caux _ | prev _ | digest _ | din _ | z _ => rfl
  refine ⟨performRead_of_readReg hb hv, ?_⟩
  rw [performRead_twice hb hv]
  simp [State.answer]

/-! ### Writes (R34) -/

theorem writeAux_writeAux (s : State) (j : Fin 5) (v : Word) :
    (s.writeAux j v).writeAux j v = s.writeAux j v := by
  simp [State.writeAux]

theorem writeDin_writeDin (s : State) (j : Fin 16) (v : Word) :
    (s.writeDin j v).writeDin j v = s.writeDin j v := by
  simp [State.writeDin]

/-- A write that its own next state answers unchanged is idempotent. -/
theorem performWrite_twice {s t : State} (hb : s.build.wf) {r : Reg} {v : Word}
    (ht : writeReg r v s = .next t) (hbuild : t.build = s.build) (htt : writeReg r v t = .next t) :
    andThen (performWrite (s.build.base + r.offset) 4 v s)
      (performWrite (s.build.base + r.offset) 4 v)
      = performWrite (s.build.base + r.offset) 4 v s := by
  rw [performWrite_offset hb, ht, andThen, ← hbuild, performWrite_offset (hbuild ▸ hb), htt]

/-- Settles O13: each offset is a register's, so the write is `writeReg` of that register. -/
theorem windowWrites : Obligations.WindowWrites := by
  unfold Obligations.WindowWrites
  intro s v hb
  refine ⟨fun j => ⟨performWrite_offset hb (.aux j) v, ?_⟩,
    fun j => ⟨performWrite_offset hb (.din j) v, ?_⟩, performWrite_offset hb .cmd v⟩
  · exact performWrite_twice hb (r := .aux j) rfl rfl (congrArg Host.Outcome.next (writeAux_writeAux s j v))
  · exact performWrite_twice hb (r := .din j) rfl rfl (congrArg Host.Outcome.next (writeDin_writeDin s j v))

theorem readReg_writeAux_same (s : State) (j : Fin 5) (v : Word) :
    readReg (s.writeAux j v) (.aux j) = some v := by
  simp [readReg]

theorem readReg_writeDin_same (s : State) (j : Fin 16) (v : Word) :
    readReg (s.writeDin j v) (.din j) = some v := by
  simp [readReg]

theorem readReg_writeAux_of_ne (s : State) {j : Fin 5} (v : Word) {r : Reg} (h : r ≠ .aux j) :
    readReg (s.writeAux j v) r = readReg s r := by
  cases r with
  | aux i =>
    have hij : j.val ≠ i.val := fun he => h (congrArg Reg.aux (Fin.ext he.symm))
    simp [readReg, Vector.getElem_set_ne, hij]
  | cmd | status | sb | caux _ | prev _ | digest _ | din _ | z _ => rfl

theorem readReg_writeDin_of_ne (s : State) {j : Fin 16} (v : Word) {r : Reg} (h : r ≠ .din j) :
    readReg (s.writeDin j v) r = readReg s r := by
  cases r with
  | din i =>
    have hij : j.val ≠ i.val := fun he => h (congrArg Reg.din (Fin.ext he.symm))
    simp [readReg, Vector.getElem_set_ne, hij]
  | cmd | status | sb | aux _ | caux _ | prev _ | digest _ | z _ => rfl

/-- Settles O14: a staging write answers `writeAux` or `writeDin`, whose reads are known. -/
theorem stagingWriteFrame : Obligations.StagingWriteFrame := by
  unfold Obligations.StagingWriteFrame
  rintro s t r r' v (⟨j, rfl⟩ | ⟨j, rfl⟩) ht
  · obtain rfl : s.writeAux j v = t := Host.Outcome.next.inj ht
    exact ⟨readReg_writeAux_same s j v, readReg_writeAux_of_ne s v⟩
  · obtain rfl : s.writeDin j v = t := Host.Outcome.next.inj ht
    exact ⟨readReg_writeDin_same s j v, readReg_writeDin_of_ne s v⟩

/-! ### Steps (R42, R49) -/

theorem step_of_pending_nil {s : State} (h : s.pending = []) : step s = .next s := by
  simp only [step, stepPending, h]

theorem step_of_pending_cons {s : State} {a : Access} {rest : List Access}
    (h : s.pending = a :: rest) : step s = performAccess a (s.setPending rest) := by
  simp only [step, stepPending, h]

/-- The offset of `CMD` is 0. -/
theorem performWrite_base {s : State} (hb : s.build.wf) (w : Word) :
    performWrite s.build.base 4 w s = performCommand w s :=
  performWrite_offset hb .cmd w

/-- Settles O6. -/
theorem stepPerformsNextEvent : Obligations.StepPerformsNextEvent :=
  fun _ => ⟨step_of_pending_nil, fun _ _ => step_of_pending_cons⟩

/-- Settles O5: the event is a write to `CMD`, whose word decodes. -/
theorem stepRunsDecodedCommand : Obligations.StepRunsDecodedCommand := by
  unfold Obligations.StepRunsDecodedCommand
  intro s w rest i hb hp hw
  calc step s
    _ = performWrite s.build.base 4 w (s.setPending rest) := step_of_pending_cons hp
    _ = performCommand w (s.setPending rest) := performWrite_base (s := s.setPending rest) hb w
    _ = exec i (s.setPending rest) := performCommand_of_decode hw _

theorem tableWord_32 (w : Nat) : tableWord 32 w = BitVec.ofNat 32 w :=
  BitVec.eq_of_toNat_eq (by simp [tableWord])

/-- Taking the placed access off the list again gives the state itself (log 3). -/
theorem step_withFetchWord {s : State} (hb : s.build.wf) (nbits w : Nat) :
    step (s.withFetchWord nbits w) = performCommand (tableWord nbits w) s :=
  calc step (s.withFetchWord nbits w)
    _ = performWrite s.build.base 4 (tableWord nbits w) s :=
      step_of_pending_cons (s := s.withFetchWord nbits w) rfl
    _ = performCommand (tableWord nbits w) s := performWrite_base hb _

/-- Settles O7: the placed word is the 32 bits themselves. -/
theorem placedCommandRunsNext : Obligations.PlacedCommandRunsNext := by
  unfold Obligations.PlacedCommandRunsNext
  intro s w hb _
  rw [step_withFetchWord hb, tableWord_32]

end Sys2Proof.Machine

/-! The values of array registers (spec/20_memory.md R39) and `DIN` as bytes (R38). -/

namespace Sys2Proof.Machine

/-- A list of `k`-bit digits, the most significant first, as a sum. -/
theorem foldl_digits_eq_sum {α : Type} (val : α → Nat) (k : Nat) (l : List α) :
    l.foldl (fun a x => a * 2 ^ k + val x) 0 =
      ∑ j : Fin l.length, val l[j] * 2 ^ (k * (l.length - 1 - j.val)) := by
  induction l with
  | nil => rfl
  | cons x xs ih =>
    rw [List.foldl_cons, foldl_digits_acc, ih]
    refine Eq.trans ?_ (Fin.sum_univ_succ _).symm
    simp [Nat.sub_sub, Nat.add_comm]

/-- The sum of R39, by way of the list of the array's words. -/
theorem wordsValue_eq_sum {n : Nat} (ws : Words n) :
    wordsValue ws = ∑ j : Fin n, ws[j].toNat * 2 ^ (32 * (n - 1 - j.val)) := by
  obtain ⟨⟨l⟩, rfl⟩ := ws
  exact foldl_digits_eq_sum (fun w : Word => w.toNat) 32 l

/-- Settles O16: the sum by `wordsValue_eq_sum`; below `2 ^ (32 n)` reading and writing are inverse. -/
theorem arrayValueBigEndian : Obligations.ArrayValueBigEndian := fun _ ws =>
  ⟨wordsValue_eq_sum ws, fun _ hv => ⟨wordsValue_valueWords_of_lt hv,
    fun ws' h => h ▸ (valueWords_wordsValue ws').symm⟩⟩

/-- Byte `k` of a list of words is byte `k mod 4` of word `k div 4` (R38). -/
theorem flatMap_wordBytes_getElem? (l : List Word) (k : Nat) :
    (l.flatMap wordBytes)[k]? = l[k / 4]?.map (·.extractLsb' (24 - 8 * (k % 4)) 8) := by
  induction l generalizing k with
  | nil => rfl
  | cons w ws ih =>
    match k with
    | 0 | 1 | 2 | 3 => rfl
    | k + 4 =>
      rw [Nat.add_div_right k (by decide), Nat.add_mod_right, List.getElem?_cons_succ, ← ih]
      rfl

theorem dinBytes_getElem? (s : State) (k : Fin 64) :
    (dinBytes s)[k.val]? = some (s.din[k.val / 4].extractLsb' (24 - 8 * (k.val % 4)) 8) := by
  have h : s.din.toList[k.val / 4]? = some s.din[k.val / 4] := by simp
  rw [dinBytes, flatMap_wordBytes_getElem?, h, Option.map_some]

/-- Settles O17: the bytes by `dinBytes_getElem?`; a block is the first `len` of the 64. -/
theorem dinBytesLeftAligned : Obligations.DinBytesLeftAligned := by
  unfold Obligations.DinBytesLeftAligned
  intro s k
  refine ⟨dinBytes_getElem? s k, fun len hlen => ⟨?_, fun hk => ?_⟩⟩
  · rw [dinBlock_length, Nat.min_eq_left hlen]
  · rw [dinBlock, List.getElem?_take_of_lt hk]

end Sys2Proof.Machine

/-! Encoding (spec/30_encoding.md R45 to R49): a word is its two fields, and decoding is read off the
fields of the command it answers. -/

namespace Sys2Proof.Machine

/-! ### The fields of a word (R45) -/

theorem opField_toNat (w : Word) : (opField w).toNat = w.toNat / 2 ^ 24 := by
  have := w.isLt
  simp only [opField, BitVec.extractLsb'_toNat, Nat.shiftRight_eq_div_pow]
  omega

theorem immField_toNat (w : Word) : (immField w).toNat = w.toNat % 2 ^ 24 := by
  simp only [immField, BitVec.extractLsb'_toNat, Nat.shiftRight_zero]

theorem word_eq_of_fields {v w : Word} (hop : opField v = opField w)
    (himm : immField v = immField w) : v = w := by
  have hop := congrArg BitVec.toNat hop
  have himm := congrArg BitVec.toNat himm
  rw [opField_toNat, opField_toNat] at hop
  rw [immField_toNat, immField_toNat] at himm
  exact BitVec.eq_of_toNat_eq (by omega)

/-! ### Decoding (R46 to R48) -/

/-- A command whose immediate must be zero is answered for that immediate only. -/
theorem op_imm_of_needsZeroImm {op : BitVec 8} {imm : Imm} {i j : Instr}
    (h : needsZeroImm op imm i = .ok j) (hop : i.op = op) (himm : i.imm = 0) (hi : i.WF) :
    j.op = op ∧ j.imm = imm ∧ j.WF := by
  by_cases hz : imm = 0
  · rw [needsZeroImm, if_pos hz] at h
    cases h
    exact ⟨hop, himm.trans hz.symm, hi⟩
  · rw [needsZeroImm, if_neg hz] at h
    cases h

/-- The fields of a command decode to it: R46 read from left to right. -/
theorem decodeFields_op_imm {i : Instr} (hi : i.WF) : decodeFields i.op i.imm = .ok i := by
  cases i with
  | nop | cfg _ | seed | seedrnd | compress _ | clrerr | reset => rfl
  | gen count =>
    have hcount : count ≠ 0 := by simpa only [Instr.WF, Instr.wellFormed, bne_iff_ne] using hi
    exact if_neg hcount

/-- R46 read from right to left: fields that decode are those of the command. -/
theorem op_imm_of_decodeFields {op : BitVec 8} {imm : Imm} {i : Instr}
    (h : decodeFields op imm = .ok i) : i.op = op ∧ i.imm = imm ∧ i.WF := by
  unfold decodeFields at h
  split_ifs at h with h0 h1 h2 h3 h4 hz h5 h6 h7
  · exact op_imm_of_needsZeroImm h h0.symm rfl rfl
  · cases h; exact ⟨h1.symm, rfl, rfl⟩
  · exact op_imm_of_needsZeroImm h h2.symm rfl rfl
  · exact op_imm_of_needsZeroImm h h3.symm rfl rfl
  · cases h; exact ⟨h4.symm, rfl, by simpa only [Instr.WF, Instr.wellFormed, bne_iff_ne] using hz⟩
  · cases h; exact ⟨h5.symm, rfl, rfl⟩
  · exact op_imm_of_needsZeroImm h h6.symm rfl rfl
  · exact op_imm_of_needsZeroImm h h7.symm rfl rfl

theorem decode_encode {i : Instr} (hi : i.WF) : decode (encode i) = .ok i := by
  rw [decode, Laws.Row.opField_encode, Laws.Row.immField_encode, decodeFields_op_imm hi]

theorem encode_of_decode {w : Word} {i : Instr} (h : decode w = .ok i) : encode i = w := by
  obtain ⟨hop, himm, -⟩ := op_imm_of_decodeFields h
  exact word_eq_of_fields ((Laws.Row.opField_encode i).trans hop)
    ((Laws.Row.immField_encode i).trans himm)

theorem wf_of_decode {w : Word} {i : Instr} (h : decode w = .ok i) : i.WF :=
  (op_imm_of_decodeFields h).2.2

theorem encode_matches_row (i : Instr) : encode i &&& i.row.2 = i.row.1 := by
  have hrow : Laws.Row.Statement i := by
    cases i with
    | nop => exact Laws.Row.nop
    | cfg n => exact Laws.Row.cfg n
    | seed => exact Laws.Row.seed
    | seedrnd => exact Laws.Row.seedrnd
    | gen c => exact Laws.Row.gen c
    | compress n => exact Laws.Row.compress n
    | clrerr => exact Laws.Row.clrerr
    | reset => exact Laws.Row.reset
  exact hrow.2.2

/-- Settles O1: the two fields of the word are the command's, and they decode to it. -/
theorem decodeEncodeRoundTrip : Obligations.DecodeEncodeRoundTrip :=
  fun _ => decode_encode

/-- Settles O2: the word has the fields of its command, so it is the command's word. -/
theorem decodedWordIsItsEncoding : Obligations.DecodedWordIsItsEncoding := by
  unfold Obligations.DecodedWordIsItsEncoding
  intro w i h
  have hw : encode i = w := encode_of_decode h
  exact ⟨hw, wf_of_decode h, hw ▸ encode_matches_row i⟩

/-- Settles O4: the words are fixed, so `decode` computes each answer. -/
theorem sampleWordsDecode : Obligations.SampleWordsDecode := by
  unfold Obligations.SampleWordsDecode
  decide

/-! ### Reserved encodings (R48) -/

theorem exists_needsZeroImm_eq_error_iff {op : BitVec 8} {imm : Imm} {i : Instr} :
    (∃ r, needsZeroImm op imm i = .error r) ↔ imm ≠ 0 := by
  by_cases hz : imm = 0
  · rw [needsZeroImm, if_pos hz]
    exact iff_of_false nofun (not_not.2 hz)
  · rw [needsZeroImm, if_neg hz]
    exact iff_of_true ⟨_, rfl⟩ hz

/-- The three clauses of R48, on the fields. -/
theorem exists_decodeFields_eq_error_iff {op : BitVec 8} {imm : Imm} :
    (∃ r, decodeFields op imm = .error r) ↔
      8 ≤ op.toNat ∨ (op.toNat ∈ [0, 2, 3, 6, 7] ∧ imm ≠ 0) ∨ (op.toNat = 4 ∧ imm = 0) := by
  unfold decodeFields
  split_ifs with h0 h1 h2 h3 h4 hz h5 h6 h7
  on_goal -1 =>
    have hop : 8 ≤ op.toNat := by bv_omega
    exact iff_of_true ⟨_, rfl⟩ (.inl hop)
  all_goals subst op; simp_all [exists_needsZeroImm_eq_error_iff]

theorem immField_eq_zero_iff (w : Word) : immField w = 0 ↔ w.toNat % 2 ^ 24 = 0 := by
  rw [← BitVec.toNat_inj, immField_toNat]
  rfl

theorem exists_decode_eq_error_iff (w : Word) :
    (∃ r, decode w = .error r) ↔
      8 ≤ w.toNat / 2 ^ 24 ∨ (w.toNat / 2 ^ 24 ∈ [0, 2, 3, 6, 7] ∧ w.toNat % 2 ^ 24 ≠ 0) ∨
        w = 0x04000000 := by
  have hgen : w = 0x04000000 ↔ w.toNat / 2 ^ 24 = 4 ∧ w.toNat % 2 ^ 24 = 0 := by
    rw [← BitVec.toNat_inj, show (0x04000000 : Word).toNat = 0x04000000 from rfl]
    omega
  rw [decode, exists_decodeFields_eq_error_iff, hgen, opField_toNat, ne_eq, immField_eq_zero_iff]

/-- Settles O3: the clauses by `exists_decode_eq_error_iff`; a reserved word raises BadCommand behind
the check of R106. -/
theorem reservedEncodings : Obligations.ReservedEncodings := by
  unfold Obligations.ReservedEncodings
  refine fun w => ⟨exists_decode_eq_error_iff w, ?_⟩
  rintro ⟨r, hr⟩ s
  rw [performCommand_of_reserved hr]
  exact ⟨unlessPending_clear _, unlessPending_pending _⟩

/-! ### Dispatch of a command word (R49) -/

/-- Every command but CLRERR and RESET is dropped while a fault is pending (R106). -/
theorem exec_of_pending {i : Instr} {s : State} (h : s.err ≠ .none) (hclrerr : i ≠ .clrerr)
    (hreset : i ≠ .reset) : exec i s = .next s := by
  cases i with
  | nop | cfg _ | seed | seedrnd | gen _ | compress _ => exact unlessPending_pending _ h
  | clrerr => exact absurd rfl hclrerr
  | reset => exact absurd rfl hreset

/-- R106 on words: only the words of CLRERR and RESET act while a fault is pending. -/
theorem performCommand_of_pending {w : Word} {s : State} (h : s.err ≠ .none)
    (hclrerr : w ≠ encode .clrerr) (hreset : w ≠ encode .reset) :
    performCommand w s = .next s := by
  cases hw : decode w with
  | ok i =>
    have hi : encode i = w := encode_of_decode hw
    rw [performCommand_of_decode hw]
    exact exec_of_pending h (fun he => hclrerr (he ▸ hi.symm)) (fun he => hreset (he ▸ hi.symm))
  | error r => exact (performCommand_of_reserved hw s).trans (unlessPending_pending _ h)

/-- A command performs its own effect when its word is written to `CMD`. -/
theorem performCommand_encode {i : Instr} (hi : i.WF) (s : State) :
    performCommand (encode i) s = exec i s :=
  performCommand_of_decode (decode_encode hi) s

/-- Settles O8: the write reaches `CMD`; the pending-fault branch is `performCommand_of_pending` and the
words of CLRERR and RESET. -/
theorem commandDispatch : Obligations.CommandDispatch := by
  unfold Obligations.CommandDispatch
  intro w s hb
  rw [Nat.add_zero, performWrite_base hb]
  split_ifs with he hclrerr hreset
  · exact hclrerr ▸ performCommand_encode (i := .clrerr) rfl s
  · exact hreset ▸ performCommand_encode (i := .reset) rfl s
  · exact performCommand_of_pending he hclrerr hreset
  · have he : s.err = .none := not_not.1 he
    cases hw : decode w with
    | ok i => exact performCommand_of_decode hw s
    | error r => exact (performCommand_of_reserved hw s).trans (unlessPending_clear _ he)

end Sys2Proof.Machine

/-! Splitting a long GEN (spec/30_encoding.md R57, R58): whole steps first and then the rest are the loop
of one unbounded generate. -/

namespace Sys2Proof.Machine

/-! ### The loop cut at a multiple of 160 bits (R89) -/

/-- An iteration that still wants 160 bits emits its digest whole. -/
theorem genLoop_succ_of_le (n : Nat) {c : Nat} (h : 160 ≤ c) (s : State) :
    genLoop (n + 1) c s = genLoop n (c - 160) ((genStep s).emit (digestBits (stepDigest s))) := by
  have hmin : min Config.digestBits c = 160 := Nat.min_eq_left h
  have htake : (digestBits (stepDigest s)).take 160 = digestBits (stepDigest s) :=
    List.take_of_length_le (digestBits_length _).le
  rw [genLoop, hmin, htake, Config.digestBits]

theorem genLoop_add (m n c : Nat) (s : State) :
    genLoop (m + n) (160 * m + c) s = genLoop n c (genLoop m (160 * m) s) := by
  induction m generalizing s with
  | zero => rw [Nat.zero_add, Nat.mul_zero, Nat.zero_add, genLoop]
  | succ m ih =>
    rw [Nat.add_right_comm, genLoop_succ_of_le _ (by omega), genLoop_succ_of_le _ (by omega),
      Nat.mul_succ, Nat.add_right_comm, Nat.add_sub_cancel, Nat.add_sub_cancel, ih]

theorem generate_add {a : Nat} (ha : a % 160 = 0) (c : Nat) (s : State) :
    generate (a + c) s = generate c (generate a s) := by
  have hsteps : stepCount (a + c) = a / 160 + stepCount c := by
    simp only [stepCount, Config.digestBits]; omega
  have hstepsa : stepCount a = a / 160 := by
    simp only [stepCount, Config.digestBits]; omega
  have hdiv : 160 * (a / 160) = a := by omega
  have h := genLoop_add (a / 160) (stepCount c) c s
  rwa [hdiv, ← hsteps, ← hstepsa] at h

@[simp] theorem generate_zero (s : State) : generate 0 s = s := rfl

/-! ### Sequences of commands -/

theorem foldl_andThen_next (is : List Instr) (r : Result) :
    is.foldl (fun r i => andThen r (exec i)) r = andThen r (execAll is) := by
  induction is generalizing r with
  | nil => cases r <;> rfl
  | cons i is ih =>
    cases r with
    | next s => rfl
    | fault f => cases f
    | refused ρ => exact ih _

theorem execAll_cons (i : Instr) (is : List Instr) (s : State) :
    execAll (i :: is) s = andThen (exec i s) (execAll is) :=
  foldl_andThen_next is (exec i s)

/-! ### GENs of a valid split (R58) -/

/-- A generator that GEN acts on: configured, seeded, no fault pending. -/
def Ready (s : State) : Prop := s.err = .none ∧ s.configured = true ∧ s.seeded = true

theorem ready_generate {s : State} (h : Ready s) (count : Nat) : Ready (generate count s) := by
  rw [generate_frame]
  exact h

/-- A count that fits the immediate is counted as it is. -/
theorem exec_gen_of_ready {s : State} (h : Ready s) {c : Nat} (hpos : 1 ≤ c) (hlt : c < 2 ^ 24) :
    exec (.gen (BitVec.ofNat 24 c)) s = .next (generate c s) := by
  obtain ⟨he, hc, hs⟩ := h
  have hval : (BitVec.ofNat 24 c).toNat = c := Nat.mod_eq_of_lt hlt
  have hne : BitVec.ofNat 24 c ≠ 0 := by
    rw [ne_eq, ← BitVec.toNat_inj, hval]
    exact Nat.ne_of_gt hpos
  have hseeded (r : Result) : ifSeeded s r = r := if_pos (by rw [hc, hs]; rfl)
  rw [exec, execGen, unlessPending_clear _ he, if_neg hne, hseeded, zextImm_eq, hval]

theorem execAll_gens {cs : List Nat} (hfit : ∀ c ∈ cs, 1 ≤ c ∧ c < 2 ^ 24)
    (hwhole : ∀ c ∈ cs.dropLast, c % 160 = 0) {s : State} (h : Ready s) :
    execAll (cs.map fun c => .gen (BitVec.ofNat 24 c)) s = .next (generate cs.sum s) := by
  induction cs generalizing s with
  | nil => rfl
  | cons c cs ih =>
    obtain ⟨hc, hcs⟩ := List.forall_mem_cons.1 hfit
    rw [List.map_cons, execAll_cons, exec_gen_of_ready h hc.1 hc.2, andThen, List.sum_cons]
    cases cs with
    | nil => rfl
    | cons c' cs =>
      rw [List.dropLast_cons_cons, List.forall_mem_cons] at hwhole
      rw [ih hcs hwhole.2 (ready_generate h c), generate_add hwhole.1]

/-! ### The driver's split (log 10) -/

/-- Whole pieces of `splitChunk` bits leave a last piece of 1 to `splitChunk` bits. -/
theorem validSplit_pieces {count : Nat} (h : 1 ≤ count) :
    ValidSplit count (List.replicate ((count - 1) / splitChunk) splitChunk
      ++ [count - (count - 1) / splitChunk * splitChunk]) := by
  have hlast : (count - 1) / splitChunk * splitChunk < count ∧
      count - (count - 1) / splitChunk * splitChunk ≤ splitChunk := by
    rw [splitChunk]; omega
  refine ⟨?_, ?_, ?_⟩
  · rw [List.sum_append, List.sum_replicate, List.sum_singleton, smul_eq_mul]
    omega
  · simp only [List.forall_mem_append, List.mem_replicate, List.mem_singleton]
    refine ⟨fun c hc => ?_, fun c hc => ?_⟩
    · rw [hc.2, splitChunk]; omega
    · rw [splitChunk] at hlast hc; omega
  · rw [List.dropLast_concat]
    intro c hc
    rw [List.eq_of_mem_replicate hc, splitChunk]

theorem validSplit_splitCount {count : Nat} (h : 1 ≤ count) : ValidSplit count (splitCount count) := by
  unfold splitCount
  split_ifs with hlt
  · exact ⟨List.sum_singleton, by simpa using ⟨h, hlt⟩, by simp⟩
  · exact validSplit_pieces h

/-- Settles O51: the GENs by `execAll_gens`, the driver's split by `validSplit_splitCount`. -/
theorem splitCounts : Obligations.SplitCounts := by
  unfold Obligations.SplitCounts
  refine ⟨fun s count cs he hc hs hsplit => ?_, fun count => validSplit_splitCount⟩
  obtain ⟨hsum, hfit, hwhole⟩ := hsplit
  exact hsum ▸ execAll_gens hfit hwhole ⟨he, hc, hs⟩

end Sys2Proof.Machine

/-! Hex text to auxiliary word (spec/30_encoding.md R55). -/

namespace Sys2Proof.Machine

/-! ### Characters -/

theorem isSpace_iff (c : Char) : isSpace c = true ↔ c.toNat ∈ [9, 10, 11, 12, 13, 32] := by
  simp only [isSpace, Bool.or_eq_true, Bool.and_eq_true, beq_iff_eq, decide_eq_true_eq,
    List.mem_cons, List.not_mem_nil, or_false]
  omega

theorem hexDigit_isSome_iff (c : Char) :
    (∃ v, hexDigit c = some v) ↔
      ('0' ≤ c ∧ c ≤ '9') ∨ ('a' ≤ c ∧ c ≤ 'f') ∨ ('A' ≤ c ∧ c ≤ 'F') := by
  have hle (a b : Char) : a ≤ b ↔ a.toNat ≤ b.toNat := Iff.rfl
  simp only [hle, Char.reduceToNat]
  unfold hexDigit
  split_ifs <;> simp <;> omega

theorem hexDigit_lt {c : Char} {v : Nat} (h : hexDigit c = some v) : v < 16 := by
  unfold hexDigit at h
  split_ifs at h <;> simp only [Option.some.injEq] at h <;> omega

/-! ### Digits -/

theorem digitsValue_eq_none {digit : Char → Option Nat} {radix : Nat} {cs : List Char}
    (h : ∃ c ∈ cs, digit c = none) (acc : Nat) : digitsValue digit radix cs acc = none := by
  induction cs generalizing acc with
  | nil => simp at h
  | cons c cs ih =>
    rw [digitsValue]
    cases hc : digit c with
    | none => rfl
    | some x => exact ih (by simpa [hc] using h) _

/-- Text of `n` hexadecimal digits has the value `v` above `acc` exactly when each digit is its own digit
of `v` in radix 16, the first most significant. -/
theorem digitsValue_hexDigit_eq_some {cs : List Char} {acc v : Nat} :
    digitsValue hexDigit 16 cs acc = some v ↔
      v / 16 ^ cs.length = acc ∧
        ∀ d < cs.length, ∃ c, cs[d]? = some c ∧
          hexDigit c = some (v / 16 ^ (cs.length - 1 - d) % 16) := by
  induction cs generalizing acc with
  | nil => simp [digitsValue, eq_comm]
  | cons c cs ih =>
    have hdigits (P : Nat → Char → Prop) : (∀ d < (c :: cs).length, ∃ x, (c :: cs)[d]? = some x ∧ P d x)
        ↔ P 0 c ∧ ∀ d < cs.length, ∃ x, cs[d]? = some x ∧ P (d + 1) x := by
      rw [List.length_cons, Nat.forall_lt_succ_left']
      simp
    rw [hdigits, digitsValue]
    have hexp (d : Nat) : (c :: cs).length - 1 - (d + 1) = cs.length - 1 - d := by
      rw [List.length_cons]; omega
    simp only [hexp]
    cases hc : hexDigit c with
    | none => simp
    | some x =>
      have hx := hexDigit_lt hc
      have hhead : v / 16 ^ cs.length = acc * 16 + x ↔
          v / 16 ^ (cs.length + 1) = acc ∧ x = v / 16 ^ cs.length % 16 := by
        rw [pow_succ, ← Nat.div_div_eq_div_mul]
        omega
      simp [ih, hhead, and_assoc]

/-! ### The auxiliary word -/

theorem toNat_extractLsb'_digit (h : BitVec 160) {d : Nat} (hd : d < 40) :
    (h.extractLsb' (156 - 4 * d) 4).toNat = h.toNat / 16 ^ (40 - 1 - d) % 16 := by
  have hexp : 156 - 4 * d = 4 * (40 - 1 - d) := by omega
  rw [BitVec.extractLsb'_toNat, Nat.shiftRight_eq_div_pow, hexp, pow_mul]
  norm_num only

/-- Forty digits denote a 160-bit number, and the number determines them. -/
theorem digitsValue_ofNat_eq {digits : List Char} (hlen : digits.length = 40) (h : BitVec 160) :
    (∃ v, digitsValue hexDigit 16 digits 0 = some v ∧ BitVec.ofNat 160 v = h) ↔
      ∀ d < 40, ∃ c, digits[d]? = some c ∧
        hexDigit c = some (h.extractLsb' (156 - 4 * d) 4).toNat := by
  have hpow : 16 ^ 40 = 2 ^ 160 := by norm_num
  have hvalue (v : Nat) : digitsValue hexDigit 16 digits 0 = some v ↔ v < 2 ^ 160 ∧
      ∀ d < 40, ∃ c, digits[d]? = some c ∧ hexDigit c = some (v / 16 ^ (40 - 1 - d) % 16) := by
    rw [digitsValue_hexDigit_eq_some, hlen, Nat.div_eq_zero_iff_lt (by positivity), hpow]
  have hdigits : (∀ d < 40, ∃ c, digits[d]? = some c ∧
        hexDigit c = some (h.extractLsb' (156 - 4 * d) 4).toNat) ↔
      digitsValue hexDigit 16 digits 0 = some h.toNat := by
    rw [hvalue, and_iff_right h.isLt]
    exact forall₂_congr fun d hd => by rw [toNat_extractLsb'_digit h hd]
  rw [hdigits]
  constructor
  · rintro ⟨v, hv, rfl⟩
    rwa [BitVec.toNat_ofNat, Nat.mod_eq_of_lt ((hvalue v).1 hv).1]
  · exact fun hv => ⟨h.toNat, hv, BitVec.ofNat_toNat _ _⟩

theorem parseAux_eq_ok {text : List Char} {h : BitVec 160} :
    parseAux text = .ok h ↔
      (text.filter fun c => !isSpace c).length = 40 ∧
        ∃ v, digitsValue hexDigit 16 (text.filter fun c => !isSpace c) 0 = some v ∧
          BitVec.ofNat 160 v = h := by
  rw [parseAux]
  split_ifs with hlen
  · exact iff_of_false nofun fun hok => hlen hok.1
  · rw [and_iff_right (not_not.1 hlen)]
    cases digitsValue hexDigit 16 (text.filter fun c => !isSpace c) 0 <;> simp

theorem parseAux_of_length_ne {text : List Char}
    (h : (text.filter fun c => !isSpace c).length ≠ 40) : parseAux text = .error .validation :=
  if_pos h

theorem parseAux_of_not_hexDigit {text : List Char}
    (h : ∃ c ∈ text.filter fun c => !isSpace c, hexDigit c = none) :
    parseAux text = .error .validation := by
  rw [parseAux, digitsValue_eq_none h]
  exact ite_id _

/-- Settles O59: the text that is read by `digitsValue_ofNat_eq`, the text that is not by the two errors of
`parseAux`. -/
theorem auxText : Obligations.AuxText := by
  unfold Obligations.AuxText
  refine ⟨isSpace_iff, hexDigit_isSome_iff, by decide, by decide, fun text h => ?_⟩
  refine ⟨?_, parseAux_of_not_hexDigit, parseAux_of_length_ne⟩
  rw [parseAux_eq_ok]
  exact and_congr_right fun hlen => digitsValue_ofNat_eq hlen h

end Sys2Proof.Machine

/-! The host's side (spec/30_encoding.md R52, R53, R59): a run of accesses as a sequence, access by
access, and what the loads of the staging registers leave. -/

namespace Sys2Proof.Machine

/-! ### Runs, access by access (R42) -/

theorem runAccesses_nil (s : State) : runAccesses [] s = .next (s.setPending []) := rfl

theorem run_succ_of_next {M : Host.Core} {s t : M.State} (h : M.step s = .next t) (k : Nat) :
    M.run (k + 1) s = M.run k t := by
  rw [Host.Core.run, h]

/-- An access that does not look at what is still pending is performed, and the run goes on. -/
theorem runAccesses_cons {a : Access} {l : List Access} {s t : State}
    (h : performAccess a (s.setPending l) = .next (t.setPending l)) :
    runAccesses (a :: l) s = runAccesses l t :=
  have hstep : step (s.setPending (a :: l)) = .next (t.setPending l) :=
    (step_of_pending_cons (s := s.setPending (a :: l)) rfl).trans h
  run_succ_of_next (M := core) (s := s.setPending (a :: l)) (t := t.setPending l) hstep l.length

theorem runAccesses_wr {s t : State} (hb : s.build.wf) {r : Reg} {v : Word} {l : List Access}
    (h : writeReg r v (s.setPending l) = .next (t.setPending l)) :
    runAccesses (wr s.build r v :: l) s = runAccesses l t :=
  runAccesses_cons ((performWrite_offset (s := s.setPending l) hb r v).trans h)

theorem runAccesses_issue {s t : State} (hb : s.build.wf) {i : Instr} (hi : i.WF) {l : List Access}
    (h : exec i (s.setPending l) = .next (t.setPending l)) :
    runAccesses (issue s.build i :: l) s = runAccesses l t :=
  runAccesses_wr hb ((performCommand_encode hi _).trans h)

theorem runAccesses_rd {s : State} (hb : s.build.wf) {r : Reg} {v : Word} (h : readReg s r = some v)
    (l : List Access) : runAccesses (rd s.build r :: l) s = runAccesses l (s.answer v) :=
  runAccesses_cons (performRead_of_readReg (s := s.setPending l) hb h)

/-- A sequence of accesses that any others may follow, performed alone with nothing pending. -/
theorem runAccesses_of_append {a : List Access} {s t : State}
    (h : ∀ l, runAccesses (a ++ l) s = runAccesses l t) (ht : t.pending = []) :
    runAccesses a s = .next t := by
  rw [← List.append_nil a, h, runAccesses_nil, ← ht]
  rfl

/-! ### Loading a staging register (R53) -/

theorem getElem_foldl_set {n : Nat} (f : Fin n → Word) (js : List (Fin n)) (v : Words n) (k : Fin n) :
    (js.foldl (fun a j => a.set j (f j)) v)[k] = if k ∈ js then f k else v[k] := by
  induction js generalizing v with
  | nil => rfl
  | cons j js ih =>
    rw [List.foldl_cons, ih]
    by_cases hj : j = k
    · subst hj; simp
    · simp [Fin.val_ne_iff.2 hj, Ne.symm hj, Vector.getElem_set_ne]

/-- Writing `f j` to every element in turn leaves the array `f`, whatever it held. -/
theorem foldl_set_finRange {n : Nat} (f : Fin n → Word) (v : Words n) :
    (List.finRange n).foldl (fun a j => a.set j (f j)) v = Vector.ofFn f :=
  Vector.ext fun k hk => by simpa using getElem_foldl_set f (List.finRange n) v ⟨k, hk⟩

/-- The 32-bit fields of a bit vector, the most significant first, are the words of its value (R39). -/
theorem ofFn_extractLsb' {w : Nat} (n : Nat) (v : BitVec w) :
    Vector.ofFn (fun j : Fin n => v.extractLsb' (32 * (n - 1) - 32 * j.val) 32)
      = valueWords n v.toNat := by
  simp only [valueWords, BitVec.extractLsb', Nat.mul_sub]

/-- A load of a staging array, `put a` being the state with the array `a` in it. -/
theorem runAccesses_load {n : Nat} {reg : Fin n → Reg} {put : Words n → State} {b : Build}
    (hb : b.wf) (hbuild : ∀ a, (put a).build = b)
    (hwrite : ∀ l a j v,
      writeReg (reg j) v ((put a).setPending l) = .next ((put (a.set j v)).setPending l))
    (f : Fin n → Word) (a : Words n) (l : List Access) :
    runAccesses ((List.finRange n).map (fun j => wr b (reg j) (f j)) ++ l) (put a)
      = runAccesses l (put (Vector.ofFn f)) := by
  have key (js : List (Fin n)) (a : Words n) :
      runAccesses (js.map (fun j => wr b (reg j) (f j)) ++ l) (put a)
        = runAccesses l (put (js.foldl (fun a (j : Fin n) => a.set j (f j)) a)) := by
    induction js generalizing a with
    | nil => rfl
    | cons j js ih =>
      rw [List.map_cons, List.cons_append, ← hbuild a,
        runAccesses_wr (hbuild a ▸ hb) (hwrite _ a j (f j)), hbuild a, ih, List.foldl_cons]
  rw [key, foldl_set_finRange]

theorem runAccesses_ldaux {s : State} (hb : s.build.wf) (h : BitVec 160) (l : List Access) :
    runAccesses (ldaux s.build h ++ l) s = runAccesses l { s with aux := valueWords 5 h.toNat } := by
  rw [← ofFn_extractLsb']
  exact runAccesses_load (put := fun a => { s with aux := a }) hb (fun _ => rfl)
    (fun _ _ _ _ => rfl) _ s.aux l

theorem runAccesses_load_din {s : State} (hb : s.build.wf) (f : Fin 16 → Word) (l : List Access) :
    runAccesses ((List.finRange 16).map (fun j => wr s.build (.din j) (f j)) ++ l) s
      = runAccesses l { s with din := Vector.ofFn f } :=
  runAccesses_load (put := fun a => { s with din := a }) hb (fun _ => rfl) (fun _ _ _ _ => rfl) f
    s.din l

theorem runAccesses_ldseed {s : State} (hb : s.build.wf) (v : BitVec 512) (l : List Access) :
    runAccesses (ldseed s.build v ++ l) s = runAccesses l { s with din := valueWords 16 v.toNat } := by
  rw [← ofFn_extractLsb']
  exact runAccesses_load_din hb _ l

/-! ### Blocks in `DIN` (R38, R62) -/

/-- `DIN` after `ldblk`: the words of the padded block (R53). -/
def blockDin (block : List Byte) : Words 16 :=
  Vector.ofFn fun j => (blockWords (padBlock block)).getD j.val 0

theorem runAccesses_ldblk {s : State} (hb : s.build.wf) (block : List Byte) (l : List Access) :
    runAccesses (ldblk s.build block ++ l) s = runAccesses l { s with din := blockDin block } :=
  runAccesses_load_din hb _ l

theorem blockDin_toList {block : List Byte} (h : block.length ≤ 64) :
    (blockDin block).toList = blockWords (padBlock block) := by
  have hlen : (blockWords (padBlock block)).length = 16 :=
    blockWords_length (n := 16) (padBlock_length h)
  refine List.ext_getElem (by simp [hlen]) fun k hk hk' => ?_
  simp [blockDin, hk']

/-- Each bit of a word of four bytes is a bit of the byte that covers it (R62). -/
theorem getLsbD_appendBytes (b0 b1 b2 b3 : Byte) (k : Nat) :
    BitVec.getLsbD (w := 32) (b0 ++ b1 ++ b2 ++ b3) k =
      if k < 8 then b3.getLsbD k else if k < 16 then b2.getLsbD (k - 8)
      else if k < 24 then b1.getLsbD (k - 16) else b0.getLsbD (k - 24) := by
  -- the width as the sum of the bytes' widths, without which `getLsbD_append` does not apply
  change BitVec.getLsbD (w := 8 + 8 + 8 + 8) _ k = _
  simp only [BitVec.getLsbD_append, Nat.sub_sub]
  grind

theorem wordBytes_append (b0 b1 b2 b3 : Byte) :
    wordBytes (b0 ++ b1 ++ b2 ++ b3) = [b0, b1, b2, b3] := by
  simp only [wordBytes, List.cons.injEq, and_true]
  refine ⟨?_, ?_, ?_, ?_⟩ <;>
    (ext k hk; rw [BitVec.getElem_extractLsb', getLsbD_appendBytes]; grind)

/-- The bytes of the words of a string of whole words are the string. -/
theorem flatMap_wordBytes_blockWords {n : Nat} {p : List Byte} (h : p.length = 4 * n) :
    (blockWords p).flatMap wordBytes = p := by
  induction n generalizing p with
  | zero => simp_all [blockWords]
  | succ n ih =>
    match p, h with
    | b0 :: b1 :: b2 :: b3 :: rest, h =>
      have hrest : rest.length = 4 * n := by simp only [List.length_cons] at h; omega
      rw [blockWords, List.flatMap_cons, wordBytes_append, ih hrest]
      rfl

theorem dinBytes_blockDin {s : State} {block : List Byte} (hdin : s.din = blockDin block)
    (h : block.length ≤ 64) : dinBytes s = padBlock block := by
  rw [dinBytes, hdin, blockDin_toList h, flatMap_wordBytes_blockWords (n := 16) (padBlock_length h)]

theorem dinBlock_blockDin {s : State} {block : List Byte} (hdin : s.din = blockDin block)
    (h : block.length ≤ 64) : dinBlock s block.length = block := by
  rw [dinBlock, dinBytes_blockDin hdin h, padBlock, List.take_left]

/-- Settles O58: each load by its run, which leaves nothing pending as before. -/
theorem pseudoInstructions : Obligations.PseudoInstructions := by
  unfold Obligations.PseudoInstructions
  intro s hb hp
  refine ⟨fun h => runAccesses_of_append (runAccesses_ldaux hb h) hp,
    fun v => runAccesses_of_append (runAccesses_ldseed hb v) hp,
    fun p hlen => ⟨{ s with din := blockDin p }, ?_, rfl, ?_⟩, rfl⟩
  · exact runAccesses_of_append (runAccesses_ldblk hb p) hp
  · exact dinBytes_blockDin rfl hlen

/-! ### The compression function for a host (R59) -/

/-- COMPRESS of a block that was loaded whole writes the digest of the block (R69). -/
theorem exec_compress_of_blockDin {s : State} {block : List Byte} (he : s.err = .none)
    (hdin : s.din = blockDin block) (h : block.length ≤ 64) :
    exec (.compress (BitVec.ofNat 24 block.length)) s
      = .next (s.writeDigest (gDigest s.build.ivFromAux s.aux block)) := by
  have hval : zextImm (BitVec.ofNat 24 block.length) = block.length :=
    Nat.mod_eq_of_lt (by omega)
  have hfits : ¬Config.blockBytes < block.length := Nat.not_lt.2 h
  rw [exec, execCompress, unlessPending_clear _ he, hval, if_neg hfits, dinBlock_blockDin hdin h]

/-- Reads of some words of `DIGEST` answer those words in order. -/
theorem runAccesses_rd_digest {s : State} (hb : s.build.wf) (js : List (Fin 5)) :
    runAccesses (js.map fun j => rd s.build (.digest j)) s
      = .next { s with pending := [], answers := s.answers ++ js.map (s.digest[·]) } := by
  induction js generalizing s with
  | nil => simp [runAccesses_nil, State.setPending]
  | cons j js ih =>
    rw [List.map_cons, runAccesses_rd hb rfl]
    refine (ih (s := s.answer s.digest[j]) hb).trans ?_
    simp [State.answer]

theorem compressG_eq_ok {iv : Bool} {aux : Words 5} {block : List Byte} {d : Words 5}
    (h : compressG iv aux block = .ok d) : block.length ≤ 64 ∧ d = gDigest iv aux block := by
  by_cases hlen : block.length ≤ 64
  · exact ⟨hlen, (Except.ok.inj ((compressG_of_le hlen).symm.trans h)).symm⟩
  · have hlong : Config.blockBytes < block.length := Nat.lt_of_not_le hlen
    rw [compressG, if_pos hlong] at h
    cases h

theorem hostG_of_le (b : Build) (aux : BitVec 160) {block : List Byte} (h : block.length ≤ 64) :
    hostG b aux block = .ok (ldaux b aux ++ (ldblk b block ++
      (issue b (.compress (BitVec.ofNat 24 block.length)) ::
        (List.finRange 5).map fun j => rd b (.digest j)))) := by
  have hfits : ¬Config.blockBytes < block.length := Nat.not_lt.2 h
  rw [hostG, if_neg hfits, List.append_assoc, List.append_assoc, List.singleton_append]

/-- The sequence of R59: the staging registers are loaded, and the block is compressed and read. -/
theorem runAccesses_hostG {s : State} (hb : s.build.wf) (he : s.err = .none) (aux : BitVec 160)
    {block : List Byte} (h : block.length ≤ 64) :
    let d := gDigest s.build.ivFromAux (valueWords 5 aux.toNat) block
    runAccesses (ldaux s.build aux ++ (ldblk s.build block ++
        (issue s.build (.compress (BitVec.ofNat 24 block.length)) ::
          (List.finRange 5).map fun j => rd s.build (.digest j)))) s =
      .next { s with aux := valueWords 5 aux.toNat, din := blockDin block, digest := d, pending := [],
                     answers := s.answers ++ (List.finRange 5).map (d[·]) } := by
  intro d
  let loadedAux : State := { s with aux := valueWords 5 aux.toNat }
  let loaded : State := { loadedAux with din := blockDin block }
  have hcompress (l : List Access) :
      runAccesses (issue s.build (.compress (BitVec.ofNat 24 block.length)) :: l) loaded
        = runAccesses l (loaded.writeDigest d) :=
    runAccesses_issue (s := loaded) hb rfl
      (exec_compress_of_blockDin (s := loaded.setPending l) he rfl h)
  rw [runAccesses_ldaux hb]
  refine (runAccesses_ldblk (s := loadedAux) hb block _).trans ((hcompress _).trans ?_)
  exact runAccesses_rd_digest (s := loaded.writeDigest d) hb (List.finRange 5)

theorem map_getElem_finRange {n : Nat} (ws : Words n) :
    (List.finRange n).map (ws[·]) = ws.toList :=
  List.ext_getElem (by simp) (by simp)

/-- Settles O60: the words read, in order, are the digest's. -/
theorem hostCompression : Obligations.HostCompression := by
  unfold Obligations.HostCompression
  intro s aux block d hb he hd
  obtain ⟨hlen, rfl⟩ := compressG_eq_ok hd
  refine ⟨_, _, hostG_of_le s.build aux hlen, runAccesses_hostG hb he aux hlen, ?_⟩
  exact congrArg (s.answers ++ ·) (map_getElem_finRange _)

end Sys2Proof.Machine

/-! The arithmetic of one step of G (spec/40_compression_G.md R64, R71) and its inverse (R70 item 4). -/

namespace Sys2Proof.Machine

/-! ### Rotation, selection and the sum (R71) -/

theorem rotl32_toNat (x : Word) {n : Nat} (hn : n ≤ 32) :
    (rotl32 x n).toNat = x.toNat * 2 ^ n % 2 ^ 32 + x.toNat / 2 ^ (32 - n) := by
  have hpow : 2 ^ 32 = 2 ^ (32 - n) * 2 ^ n := by rw [← pow_add, Nat.sub_add_cancel hn]
  have hlow : x.toNat / 2 ^ (32 - n) < 2 ^ n := Nat.div_lt_of_lt_mul (hpow ▸ x.isLt)
  rw [rotl32, BitVec.toNat_or, BitVec.toNat_shiftLeft, BitVec.toNat_ushiftRight, Nat.shiftLeft_eq,
    Nat.shiftRight_eq_div_pow, hpow, Nat.mul_mod_mul_right, ← Nat.shiftLeft_eq,
    Nat.shiftLeft_add_eq_or_of_lt hlow]

/-- The rotation that undoes `rotl(B, 30)` (R70 item 4). -/
theorem rotl32_2_rotl32_30 (x : Word) : rotl32 (rotl32 x 30) 2 = x := by
  ext i hi
  have hout : x.getLsbD (2 + (30 + i)) = false := x.getLsbD_of_ge _ (by omega)
  by_cases h : i < 2
  · simp [rotl32, h, hout, show 30 + i < 32 by omega]
  · simp [rotl32, h, hout, show i - 2 < 30 by omega, show 2 + (i - 2) = i by omega,
      show ¬30 + i < 32 by omega, BitVec.getLsbD_eq_getElem hi]

theorem gSelect_getLsbD (b c d : Word) {j : Nat} (hj : j < 32) :
    (gSelect b c d).getLsbD j = if b.getLsbD j then c.getLsbD j else d.getLsbD j := by
  cases hb : b[j] <;> simp [gSelect, hb, hj]

/-- The two operands of the selection have no bit in common, whence its `|` is `+` and `^`. -/
theorem gSelect_operands_disjoint (b c d : Word) : (b &&& c) &&& (~~~b &&& d) = 0#32 := by
  ext j hj
  cases hb : b[j] <;> simp [hb]

theorem gSelect_eq_add (b c d : Word) : gSelect b c d = (b &&& c) + (~~~b &&& d) :=
  (BitVec.add_eq_or_of_and_eq_zero _ _ (gSelect_operands_disjoint b c d)).symm

theorem gSelect_eq_xor (b c d : Word) : gSelect b c d = (b &&& c) ^^^ (~~~b &&& d) := by
  ext j hj
  cases hb : b[j] <;> simp [gSelect, hb]

/-- Addition wraps, so a sum of five words may be reduced once at the end. -/
theorem toNat_sum_five (u v x y w : Word) : (u + v + x + y + w).toNat =
    (u.toNat + v.toNat + x.toNat + y.toNat + w.toNat) % 2 ^ 32 := by
  simp only [BitVec.toNat_add, Nat.mod_add_mod]

/-- Settles O19: the two rotations by `rotl32_toNat`; the new `A` is a sum of five words. -/
theorem stepArithmetic : Obligations.StepArithmetic := fun r w =>
  ⟨rotl32_toNat r.a (n := 5) (by decide), rotl32_toNat r.b (n := 30) (by decide),
    fun _ => gSelect_getLsbD r.b r.c r.d, gSelect_eq_add r.b r.c r.d, gSelect_eq_xor r.b r.c r.d,
    toNat_sum_five _ _ r.e Config.roundConstant w⟩

/-! ### A step is injective, in the registers and in the word (R70 item 4) -/

/-- Settles O20: four registers are only moved, `B` rotated on the way; `E` is the one unknown term of
the sum. -/
theorem gStepInvertible : Obligations.GStepInvertible := by
  unfold Obligations.GStepInvertible
  refine fun r w => ⟨rfl, (rotl32_2_rotl32_30 r.b).symm, rfl, rfl, ?_⟩
  simp only [gStep, Config.roundConstant]
  ring

theorem gStep_injective (w : Word) : Function.Injective (gStep · w) := by
  intro r s (h : gStep r w = gStep s w)
  obtain ⟨hra, hrb, hrc, hrd, hre⟩ := gStepInvertible r w
  obtain ⟨hsa, hsb, hsc, hsd, hse⟩ := gStepInvertible s w
  have ha : r.a = s.a := by rw [hra, hsa, h]
  have hb : r.b = s.b := by rw [hrb, hsb, h]
  have hc : r.c = s.c := by rw [hrc, hsc, h]
  have hd : r.d = s.d := by rw [hrd, hsd, h]
  have he : r.e = s.e := by rw [hre, hse, h, ha, hb, hc, hd]
  calc r = ⟨r.a, r.b, r.c, r.d, r.e⟩ := rfl
    _ = s := by rw [ha, hb, hc, hd, he]

theorem gStep_word_injective (r : WorkRegs) : Function.Injective (gStep r) := by
  intro v w h
  have ha : (gStep r v).a = (gStep r w).a := congrArg WorkRegs.a h
  exact (BitVec.add_right_inj _).1 ha

theorem gLoop_injective (ws : List Word) : Function.Injective (gLoop · ws) := by
  induction ws with
  | nil => exact fun _ _ h => h
  | cons w ws ih => exact ih.comp (gStep_injective w)

theorem feedForward_injective (iv : Words 5) : Function.Injective (feedForward iv) := by
  rintro ⟨a, b, c, d, e⟩ ⟨a', b', c', d', e'⟩ h
  simpa [feedForward] using h

end Sys2Proof.Machine

/-! Properties of G (spec/40_compression_G.md R70): one changed word, and trailing zero bytes. -/

namespace Sys2Proof.Machine

/-- The loop cut at one word: the steps before it, its own, the steps after it. -/
theorem gLoop_eq_around (r : WorkRegs) {u : List Word} {i : Nat} (hi : i < u.length) :
    gLoop r u = gLoop (gStep (gLoop r (u.take i)) u[i]) (u.drop (i + 1)) := by
  conv_lhs => rw [← List.take_append_drop i u, gLoop_append, ← List.getElem_cons_drop hi]
  rfl

/-- Words that differ in one place only: the steps before that place agree, its own step separates the
registers, and the steps after it keep them apart. -/
theorem gLoop_ne_of_one_word (r : WorkRegs) {u v : List Word} {i : Nat} (hu : i < u.length)
    (hv : i < v.length) (hne : u[i]? ≠ v[i]?) (heq : ∀ j, j ≠ i → u[j]? = v[j]?) :
    gLoop r u ≠ gLoop r v := by
  have htake : u.take i = v.take i := List.ext_getElem? fun j => by
    rw [List.getElem?_take, List.getElem?_take]
    exact if_ctx_congr Iff.rfl (fun hj => heq j hj.ne) fun _ => rfl
  have hdrop : u.drop (i + 1) = v.drop (i + 1) := List.ext_getElem? fun j => by
    rw [List.getElem?_drop, List.getElem?_drop, heq _ (by omega)]
  intro h
  rw [gLoop_eq_around r hu, gLoop_eq_around r hv, htake, hdrop] at h
  have hword : u[i] = v[i] := gStep_word_injective _ (gLoop_injective _ h)
  exact hne (by rw [List.getElem?_eq_getElem hu, List.getElem?_eq_getElem hv, hword])

/-- A block that fits the frame has sixteen words (R62). -/
theorem blockWords_padBlock_length {block : List Byte} (h : block.length ≤ 64) :
    (blockWords (padBlock block)).length = 16 :=
  blockWords_length (padBlock_length h)

/-- Settles O21: the loops end in different registers, and the sums with `I0` to `I4` keep them apart. -/
theorem oneWordChangesDigest : Obligations.OneWordChangesDigest := by
  unfold Obligations.OneWordChangesDigest
  intro ivFromAux aux x y i hx hy hi hne heq h
  refine gLoop_ne_of_one_word _ ?_ ?_ hne heq (feedForward_injective _ h)
  · rwa [blockWords_padBlock_length hx]
  · rwa [blockWords_padBlock_length hy]

/-- Zero bytes at the end of a block are those the padding would add (R61). -/
theorem padBlock_append_zeros (block : List Byte) {k : Nat} (h : block.length + k ≤ 64) :
    padBlock (block ++ List.replicate k 0) = padBlock block := by
  have hzeros : k + (Config.blockBytes - (block.length + k)) = Config.blockBytes - block.length := by
    rw [Config.blockBytes]
    omega
  rw [padBlock, padBlock, List.append_assoc, List.replicate_append_replicate, List.length_append,
    List.length_replicate, hzeros]

/-- Settles O22: both blocks fit, and their padded frames are the same. -/
theorem trailingZerosIgnored : Obligations.TrailingZerosIgnored := by
  unfold Obligations.TrailingZerosIgnored
  intro ivFromAux aux block k h
  have hlong : (block ++ List.replicate k (0 : Byte)).length ≤ 64 := by
    rwa [List.length_append, List.length_replicate]
  rw [compressG_of_le hlong, compressG_of_le (Nat.le_of_add_right_le h), gDigest, gDigest,
    padBlock_append_zeros block h]

end Sys2Proof.Machine

/-! G as the pseudocode of spec/40_compression_G.md R68, and the command COMPRESS (R69). -/

namespace Sys2Proof.Machine

theorem compressG_of_lt {iv : Bool} {aux : Words 5} {block : List Byte} (h : 64 < block.length) :
    compressG iv aux block = .error .invalidInputLength :=
  if_pos h

/-! ### The frame as bytes and words (R61, R62) -/

/-- A byte of the padded frame: one of the block, or zero past its end. -/
theorem padBlock_getD (block : List Byte) (k : Nat) :
    (padBlock block).getD k 0 = if k < block.length then block.getD k 0 else 0 := by
  unfold padBlock
  split
  case isTrue hk => rw [List.getD_append _ _ _ _ hk]
  case isFalse hk =>
    rw [List.getD_append_right _ _ _ _ (Nat.le_of_not_lt hk), List.getD_eq_getElem?_getD,
      List.getElem?_getD_replicate_default_eq]

theorem toNat_append_byte {n : Nat} (x : BitVec n) (b : Byte) :
    (x ++ b).toNat = x.toNat * 2 ^ 8 + b.toNat := by
  rw [BitVec.toNat_append, ← Nat.shiftLeft_add_eq_or_of_lt b.isLt, Nat.shiftLeft_eq]

theorem append_bytes_eq_ofNat (b0 b1 b2 b3 : Byte) :
    b0 ++ b1 ++ b2 ++ b3 = BitVec.ofNat 32
      (b0.toNat * 2 ^ 24 + b1.toNat * 2 ^ 16 + b2.toNat * 2 ^ 8 + b3.toNat) := by
  have hsum : (b0 ++ b1 ++ b2 ++ b3).toNat =
      b0.toNat * 2 ^ 24 + b1.toNat * 2 ^ 16 + b2.toNat * 2 ^ 8 + b3.toNat := by
    simp only [toNat_append_byte]
    ring
  rw [← hsum, BitVec.ofNat_toNat, BitVec.setWidth_eq]

/-- `W[i]` of a block that fits the frame, as the sum of four bytes of the frame. -/
theorem blockWords_padBlock_getElem {block : List Byte} (h : block.length ≤ 64) {i : Nat}
    (hi : i < (blockWords (padBlock block)).length) :
    (blockWords (padBlock block))[i] = BitVec.ofNat 32
      (((padBlock block).getD (4 * i) 0).toNat * 2 ^ 24
        + ((padBlock block).getD (4 * i + 1) 0).toNat * 2 ^ 16
        + ((padBlock block).getD (4 * i + 2) 0).toNat * 2 ^ 8
        + ((padBlock block).getD (4 * i + 3) 0).toNat) := by
  have hi16 : i < 16 := blockWords_padBlock_length h ▸ hi
  rw [← append_bytes_eq_ofNat, ← Option.some_inj, ← List.getElem?_eq_getElem,
    blockWords_getElem? (padBlock_length h) hi16]

/-! ### The loop on a tuple (R68) -/

/-- The working registers as the tuple `(A, B, C, D, E)` that the pseudocode of R68 steps. -/
def WorkRegs.toTuple (r : WorkRegs) : Word × Word × Word × Word × Word := (r.a, r.b, r.c, r.d, r.e)

/-- Settles O18: the words of the frame are `W[0]` to `W[15]`, and the pseudocode's iteration is `gStep`
seen through `WorkRegs.toTuple`. -/
theorem compressionFunction : Obligations.CompressionFunction := by
  unfold Obligations.CompressionFunction
  intro ivFromAux aux block p W iv step
  by_cases h : 64 < block.length
  · exact (compressG_of_lt h).trans (if_pos h).symm
  · have hlen : block.length ≤ 64 := Nat.le_of_not_lt h
    have hiv : initialWords ivFromAux aux = iv := rfl
    have hwords : blockWords (padBlock block) = (List.range 16).map W := by
      refine List.ext_getElem (by simp [blockWords_padBlock_length hlen]) fun i _ _ => ?_
      rw [blockWords_padBlock_getElem hlen]
      simp only [padBlock_getD, List.getElem_map, List.getElem_range, W, p]
    have hstart : (iv[0], iv[1], iv[2], iv[3], iv[4]) = (initialRegs iv).toTuple := rfl
    have hloop : (List.range 16).foldl step (initialRegs iv).toTuple =
        (gLoop (initialRegs iv) (blockWords (padBlock block))).toTuple := by
      rw [hwords, gLoop, List.foldl_map]
      exact List.foldl_hom _ fun _ _ => rfl
    rw [hstart, hloop, compressG_of_le hlen, gDigest, hiv]
    exact (if_neg h).symm

/-! ### COMPRESS (R69) -/

theorem exec_compress_of_le {n : Imm} {s : State} (he : s.err = .none) (hn : n.toNat ≤ 64) :
    exec (.compress n) s =
      .next (s.writeDigest (gDigest s.build.ivFromAux s.aux (dinBlock s n.toNat))) :=
  (unlessPending_clear _ he).trans (if_neg (Nat.not_lt.2 hn))

theorem exec_compress_of_lt {n : Imm} {s : State} (he : s.err = .none) (hn : 64 < n.toNat) :
    exec (.compress n) s = .next (s.setErr .invalidInputLength) :=
  (unlessPending_clear _ he).trans (if_pos hn)

theorem encode_compress (n : Imm) : encode (.compress n) = 0x05000000 ||| n.setWidth 32 := by
  simp [encode, Instr.op, Instr.imm]

/-- Settles O34: the block has at most `n` bytes, so G does not fail where COMPRESS acts. -/
theorem compressWritesDigest : Obligations.CompressWritesDigest := by
  unfold Obligations.CompressWritesDigest
  intro s n he
  refine ⟨fun hn => ⟨_, compressG_of_le ?_, exec_compress_of_le he hn⟩, exec_compress_of_lt he,
    encode_compress n⟩
  exact (List.length_take_le _ _).trans hn

end Sys2Proof.Machine

/-! CFG, SEED and SEEDRND (spec/41_generator.md R75 to R80): what each answers with no fault pending. -/

namespace Sys2Proof.Machine

theorem ifConfigured_of_configured {s : State} (r : Result) (h : s.configured = true) :
    ifConfigured s r = r :=
  if_pos h

theorem ifConfigured_of_unconfigured {s : State} (r : Result) (h : s.configured = false) :
    ifConfigured s r = .next (s.setErr .sequence) :=
  if_neg (ne_true_of_eq_false h)

/-! ### CFG (R76) -/

theorem exec_cfg_of_legal {s : State} {n : Imm} (he : s.err = .none)
    (hn : 160 ≤ n.toNat ∧ n.toNat ≤ 512) :
    exec (.cfg n) s = .next (s.configure (n.setWidth 10)) := by
  have hsb : BitVec.ofNat 10 n.toNat = n.setWidth 10 := BitVec.ofNat_toNat 10 n
  rw [exec, execCfg, unlessPending_clear _ he, zextImm_eq, if_pos ((legalSeedBits_iff _).2 hn), hsb]

theorem exec_cfg_of_illegal {s : State} {n : Imm} (he : s.err = .none)
    (hn : ¬(160 ≤ n.toNat ∧ n.toNat ≤ 512)) :
    exec (.cfg n) s = .next (s.setErr .validation) :=
  (unlessPending_clear _ he).trans (if_neg fun h => hn ((legalSeedBits_iff _).1 h))

/-- Every legal seed size fits the ten bits of `SB` (R19, R75). -/
theorem toNat_setWidth_seedBits {n : Imm} (h : n.toNat ≤ 512) :
    (n.setWidth 10 : BitVec 10).toNat = n.toNat := by
  rw [BitVec.toNat_setWidth, Nat.mod_eq_of_lt (by omega)]

theorem encode_cfg (n : Imm) : encode (.cfg n) = 0x01000000 ||| n.setWidth 32 := by
  simp [encode, Instr.op, Instr.imm]

/-- Settles O25: the two paths by `exec_cfg_of_illegal` and `exec_cfg_of_legal`. -/
theorem cfgConstructs : Obligations.CfgConstructs := by
  unfold Obligations.CfgConstructs
  intro s n he
  refine ⟨?_, encode_cfg n, fun _ => toNat_setWidth_seedBits⟩
  split_ifs with hn
  · exact exec_cfg_of_illegal he (by omega)
  · exact exec_cfg_of_legal he (by omega)

/-! ### SEED (R78) -/

theorem exec_seed_of_unconfigured {s : State} (he : s.err = .none) (hc : s.configured = false) :
    exec .seed s = .next (s.setErr .sequence) :=
  (unlessPending_clear _ he).trans (ifConfigured_of_unconfigured _ hc)

theorem exec_seed_of_le {s : State} (he : s.err = .none) (hc : s.configured = true)
    (h : 2 ^ s.sb.toNat ≤ wordsValue s.din) : exec .seed s = .next (s.setErr .seedRange) := by
  rw [exec, execSeed, unlessPending_clear _ he, ifConfigured_of_configured _ hc, dinSeed, if_pos h,
    raise]

theorem exec_seed_of_lt {s : State} (he : s.err = .none) (hc : s.configured = true)
    (h : wordsValue s.din < 2 ^ s.sb.toNat) : exec .seed s = .next (s.loadSeed s.din) := by
  rw [exec, execSeed, unlessPending_clear _ he, ifConfigured_of_configured _ hc, dinSeed,
    if_neg (Nat.not_le.2 h), valueWords_wordsValue]

/-- Settles O26: one case for each branch of R78; sixteen words hold no value above 512 bits. -/
theorem seedLoadsDin : Obligations.SeedLoadsDin := by
  unfold Obligations.SeedLoadsDin
  intro s he
  have hwidest (hsb : s.sb = 512) : wordsValue s.din < 2 ^ s.sb.toNat := by
    have hwidth : s.sb.toNat = 32 * 16 := congrArg BitVec.toNat hsb
    exact hwidth ▸ wordsValue_lt s.din
  refine ⟨?_, by decide, hwidest⟩
  split_ifs with hc hr
  · exact exec_seed_of_unconfigured he hc
  · exact exec_seed_of_le he (Bool.eq_true_of_not_eq_false hc) hr
  · exact exec_seed_of_lt he (Bool.eq_true_of_not_eq_false hc) (Nat.lt_of_not_le hr)

/-! ### SEEDRND (R80) -/

theorem exec_seedrnd_of_unconfigured {s : State} (he : s.err = .none) (hc : s.configured = false) :
    exec .seedrnd s = .next (s.setErr .sequence) :=
  (unlessPending_clear _ he).trans (ifConfigured_of_unconfigured _ hc)

theorem exec_seedrnd_of_configured {s : State} (he : s.err = .none) (hc : s.configured = true) :
    exec .seedrnd s = .next (s.loadSeed (valueWords 16 (entropySeed s))).countDraw :=
  (unlessPending_clear _ he).trans (ifConfigured_of_configured _ hc)

/-- Settles O27: the value is the model's draw, below `2 ^ SB` by its type. -/
theorem seedrndLoadsDraw : Obligations.SeedrndLoadsDraw := by
  unfold Obligations.SeedrndLoadsDraw
  refine ⟨by decide, fun s he => ⟨exec_seedrnd_of_unconfigured he, fun hc hsb => ?_⟩⟩
  exact ⟨entropySeed s, s.draws + 1, entropySeed_lt s, exec_seedrnd_of_configured he hc,
    wordsValue_valueWords_of_sb hsb (entropySeed_lt s)⟩

/-- Settles O28: the draw that `entropySeed` names fits the words of `Z`. -/
theorem seedrndTakesFreshDraw : Obligations.SeedrndTakesFreshDraw :=
  fun s he hc hsb => ⟨_, exec_seedrnd_of_configured he hc, rfl,
    wordsValue_valueWords_of_sb hsb (entropySeed_lt s)⟩

end Sys2Proof.Machine

/-! One step of the generator (spec/41_generator.md R81 to R86, R92): the candidate, its bytes, the sum,
and the bits of the digest. -/

namespace Sys2Proof.Machine

/-! ### The candidate and its bytes (R81, R82) -/

/-- Settles O31: below `2 ^ SB = M + 1` the only value that reduction changes is `M`. -/
theorem candidateReduction : Obligations.CandidateReduction := by
  unfold Obligations.CandidateReduction
  intro s hsb hz
  refine ⟨?_, zCandidate_lt hsb⟩
  unfold zCandidate modulus
  split_ifs with hM
  · rw [hM, Nat.mod_self]
  · exact Nat.mod_eq_of_lt (by omega)

theorem zCandidate_lt_two_pow {s : State} (h : 160 ≤ s.sb.toNat) : zCandidate s < 2 ^ s.sb.toNat :=
  (zCandidate_lt h).trans (modulus_lt _)

theorem beInt_serializedZ {s : State} (h : 160 ≤ s.sb.toNat) :
    beInt (serializedZ s) = zCandidate s := by
  have hfits : zCandidate s < 2 ^ (8 * serialLength s.sb) :=
    (zCandidate_lt_two_pow h).trans_le (Nat.pow_le_pow_right Nat.two_pos (le_serialLength _))
  rw [serializedZ, beInt_beBytes, Nat.mod_eq_of_lt hfits]

/-- Byte 0 of a value below `2 ^ k` holds the bits above the other `n - 1` bytes. -/
theorem beBytes_head_lt {v k n : Nat} {b : Byte} (hv : v < 2 ^ k) (hk : 8 * (n - 1) ≤ k)
    (hb : (beBytes v n)[0]? = some b) : b.toNat < 2 ^ (k - 8 * (n - 1)) := by
  cases n with
  | zero => cases hb
  | succ n =>
    obtain rfl : BitVec.ofNat 8 (v >>> (8 * n)) = b := Option.some.inj hb
    rw [Nat.add_sub_cancel] at hk ⊢
    have hdiv : v >>> (8 * n) < 2 ^ (k - 8 * n) := by
      rw [Nat.shiftRight_eq_div_pow]
      refine Nat.div_lt_of_lt_mul ?_
      rwa [← pow_add, Nat.add_sub_cancel' hk]
    exact (Nat.mod_le _ _).trans_lt hdiv

/-- Settles O32: the bytes denote the candidate, which is below `2 ^ SB`, so byte 0 holds
`SB - 8 (L - 1)` bits. -/
theorem candidateSerialised : Obligations.CandidateSerialised := by
  unfold Obligations.CandidateSerialised
  intro s hlo hhi L
  have hL : L = (s.sb.toNat + 7) / 8 := rfl
  refine ⟨serializedZ_length s, by omega, by omega, beInt_serializedZ hlo, fun b hb => ?_⟩
  have hexp : 8 - (8 * L - s.sb.toNat) = s.sb.toNat - 8 * (L - 1) := by omega
  rw [hexp]
  exact beBytes_head_lt (zCandidate_lt_two_pow hlo) (by omega) hb

/-! ### The step as a whole (R85) and the sum (R92) -/

/-- Settles O30: the block is `serializedZ s`, which fits the frame of G. -/
theorem generatorStep : Obligations.GeneratorStep := by
  unfold Obligations.GeneratorStep
  intro s hlo hhi
  have hlen : (serializedZ s).length ≤ 64 := (serializedZ_length s).trans_le (serialLength_le hhi)
  exact ⟨serializedZ s, stepDigest s, serializedZ_length s, beInt_serializedZ hlo,
    compressG_of_le hlen, rfl, rfl, wordsValue_genStep_z hlo hhi⟩

/-- Settles O33: `zc` is at most `M - 1` and `PREV` below `2 ^ 160`, which is `M + 1` for the least `SB` and
at most half of `M + 1` for the others. -/
theorem sumBounds : Obligations.SumBounds := by
  unfold Obligations.SumBounds
  intro s hsb M sum
  have hzc : zCandidate s < M := zCandidate_lt hsb
  have hprev : wordsValue s.prev < 2 ^ 160 := wordsValue_lt s.prev
  have hsum : sum = 1 + zCandidate s + wordsValue s.prev := rfl
  have hM : M = 2 ^ s.sb.toNat - 1 := rfl
  have hleast : 2 ^ 160 ≤ 2 ^ s.sb.toNat := Nat.pow_le_pow_right Nat.two_pos hsb
  have habove (h : 160 < s.sb.toNat) : 2 ^ 161 ≤ 2 ^ s.sb.toNat :=
    Nat.pow_le_pow_right Nat.two_pos h
  have hnext : nextZ s = sum % M := rfl
  refine ⟨by omega, fun h => ?_, fun h => ?_, fun h => by omega, fun h => ?_, fun h => ?_, by omega⟩
  · have := habove h
    omega
  · rw [h] at hM
    omega
  · rw [hnext, h, Nat.mod_self]
  · rw [hnext, h, Nat.mul_mod_left]

/-! ### The bits of a digest (R86) -/

theorem wordBits_getElem? (w : Word) {k : Nat} (hk : k < 32) :
    (wordBits w)[k]? = some (w.toNat.testBit (31 - k)) := by
  rw [wordBits, List.getElem?_map, List.getElem?_range hk, Option.map_some, BitVec.getMsbD]
  simp [hk, BitVec.getLsbD]

/-- Bit `k` of the words of a big-endian number, counted from the top, is a bit of the number. -/
theorem flatMap_wordBits_getElem? (l : List Word) {k : Nat} (hk : k < 32 * l.length) :
    (l.flatMap wordBits)[k]? = some
      ((l.foldl (fun acc (w : Word) => acc * 2 ^ 32 + w.toNat) 0).testBit (32 * l.length - 1 - k)) := by
  induction l generalizing k with
  | nil => cases hk
  | cons w ws ih =>
    rw [List.length_cons] at hk ⊢
    have hlow := foldl_digits_lt (fun w : Word => w.toNat) 32 (fun w => w.isLt) ws
    rw [List.flatMap_cons, List.foldl_cons, foldl_digits_acc (fun w : Word => w.toNat), Nat.zero_mul,
      Nat.zero_add, Nat.mul_comm w.toNat, Nat.testBit_two_pow_mul_add _ hlow]
    by_cases hfirst : k < 32
    · rw [List.getElem?_append_left (by simpa using hfirst), wordBits_getElem? w hfirst,
        if_neg (by omega)]
      congr 2
      omega
    · rw [List.getElem?_append_right (by simpa using hfirst), wordBits_length, ih (by omega),
        if_pos (by omega)]
      congr 2
      omega

/-- Settles O23: a digest is five words, the first most significant. -/
theorem digestBitsMsbFirst : Obligations.DigestBitsMsbFirst := fun d =>
  ⟨digestBits_length d, fun k hk => by
    have hlen : 32 * d.toList.length = 160 := by simp
    have h := flatMap_wordBits_getElem? d.toList (k := k) (by omega)
    rwa [hlen] at h⟩

end Sys2Proof.Machine

/-! GEN (spec/41_generator.md R87 to R89, R91): its bits as the digests of whole steps, and what follows for
counts, for continued streams and for colliding seeds. -/

namespace Sys2Proof.Machine

/-! ### The loop in closed form (R87, R88) -/

/-- The bits of the digests of `n` steps from `s`, in order. -/
def digestStream (n : Nat) (s : State) : List Bool :=
  (List.range n).flatMap fun k => digestBits (stepDigest (genStep^[k] s))

theorem digestStream_length (n : Nat) (s : State) : (digestStream n s).length = 160 * n := by
  simp [digestStream, List.length_flatMap, Nat.mul_comm]

theorem digestStream_succ (n : Nat) (s : State) :
    digestStream (n + 1) s = digestBits (stepDigest s) ++ digestStream n (genStep s) := by
  rw [digestStream, List.range_succ_eq_map, List.flatMap_cons, List.flatMap_map]
  rfl

/-- A step does not look at `OUT`. -/
theorem iterate_genStep_emit (b : List Bool) (n : Nat) (s : State) :
    genStep^[n] (s.emit b) = (genStep^[n] s).emit b :=
  Function.Commute.iterate_left (f := genStep) (g := (·.emit b)) (fun _ => rfl) n s

theorem digestStream_emit (b : List Bool) (n : Nat) (s : State) :
    digestStream n (s.emit b) = digestStream n s := by
  simp only [digestStream, iterate_genStep_emit]
  rfl

theorem emit_emit (s : State) (a b : List Bool) : (s.emit a).emit b = s.emit (a ++ b) := by
  simp only [State.emit, List.append_assoc]

/-- Emitting each step's part of the wanted bits emits the first `count` bits of all the digests. -/
theorem genLoop_eq_emit (n count : Nat) (s : State) :
    genLoop n count s = (genStep^[n] s).emit ((digestStream n s).take count) := by
  induction n generalizing count s with
  | zero => simp [genLoop, digestStream, State.emit]
  | succ n ih =>
    have htake : (digestStream (n + 1) s).take count =
        (digestBits (stepDigest s)).take (min 160 count)
          ++ (digestStream n (genStep s)).take (count - 160) := by
      rw [digestStream_succ, List.take_append, digestBits_length, Nat.min_comm, ← List.take_take,
        List.take_of_length_le (digestBits_length _).le]
    rw [genLoop, ih, iterate_genStep_emit, digestStream_emit, emit_emit, htake,
      Function.iterate_succ_apply, Config.digestBits]

theorem generate_eq_emit (count : Nat) (s : State) :
    generate count s =
      (genStep^[stepCount count] s).emit ((digestStream (stepCount count) s).take count) :=
  genLoop_eq_emit _ _ _

@[simp] theorem iterate_genStep_out (n : Nat) (s : State) : (genStep^[n] s).out = s.out :=
  congrFun (Function.iterate_invariant (f := genStep) (g := State.out) rfl n) s

/-! ### What GEN answers -/

theorem exec_gen_of_seeded {s : State} {c : Imm} (h : Ready s) (hc : c ≠ 0) :
    exec (.gen c) s = .next (generate c.toNat s) := by
  have hpos : 1 ≤ c.toNat := Nat.pos_of_ne_zero fun h0 => hc (BitVec.eq_of_toNat_eq h0)
  have h := exec_gen_of_ready h hpos c.isLt
  rwa [BitVec.ofNat_toNat, BitVec.setWidth_eq] at h

theorem exec_gen_of_unseeded {s : State} {c : Imm} (he : s.err = .none) (hc : c ≠ 0)
    (hs : ¬(s.configured = true ∧ s.seeded = true)) :
    exec (.gen c) s = .next (s.setErr .sequence) := by
  have hflags : ¬(s.configured && s.seeded) = true := by rwa [Bool.and_eq_true]
  rw [exec, execGen, unlessPending_clear _ he, if_neg hc, ifSeeded, if_neg hflags, raise]

theorem encode_gen (c : Imm) : encode (.gen c) = 0x04000000 ||| c.setWidth 32 := by
  simp [encode, Instr.op, Instr.imm]

/-- Settles O29: the state and the bits of `generate` by `generate_eq_emit`. -/
theorem genEmitsDigestStream : Obligations.GenEmitsDigestStream := by
  unfold Obligations.GenEmitsDigestStream
  intro s c he hc n
  refine ⟨?_, encode_gen c⟩
  split_ifs with hs
  · rw [exec_gen_of_seeded ⟨he, hs⟩ hc, generate_eq_emit, State.emit, iterate_genStep_out]
    rfl
  · exact exec_gen_of_unseeded he hc hs

/-! ### The count of bits and the range of `Z` (R91 items 1 and 2) -/

theorem exists_generate_out_eq (count : Nat) (s : State) :
    ∃ bits, (generate count s).out = s.out ++ bits ∧ bits.length = count := by
  refine ⟨(digestStream (stepCount count) s).take count, ?_, ?_⟩
  · rw [generate_eq_emit, State.emit_out, iterate_genStep_out]
  · rw [List.length_take, digestStream_length, stepCount, Config.digestBits]
    omega

/-- The last step leaves `Z` reduced mod `M`. -/
theorem wordsValue_generate_z_lt {count : Nat} (h : count ≠ 0) {s : State} (hlo : 160 ≤ s.sb.toNat)
    (hhi : s.sb.toNat ≤ 512) : wordsValue (generate count s).z < modulus s.sb := by
  obtain ⟨u, b, hu, hlast⟩ := generate_last h s
  have hsb : u.sb = s.sb := by rw [hu]
  rw [← hsb] at hlo hhi ⊢
  rw [hlast, State.emit_z, wordsValue_genStep_z hlo hhi]
  exact nextZ_lt hlo

/-- Settles O52. -/
theorem genCountAndRange : Obligations.GenCountAndRange := by
  unfold Obligations.GenCountAndRange
  intro s c he hc hs h0 hlo hhi
  obtain ⟨bits, hout, hlen⟩ := exists_generate_out_eq c.toNat s
  have hcount : c.toNat ≠ 0 := fun h => h0 (BitVec.eq_of_toNat_eq h)
  exact ⟨_, bits, exec_gen_of_seeded ⟨he, hc, hs⟩ h0, hout, hlen,
    wordsValue_generate_z_lt hcount hlo hhi⟩

/-! ### Continued streams (R89) -/

/-- Settles O50: both sides generate `a + c` bits, by `generate_add`. -/
theorem genContinues : Obligations.GenContinues := by
  unfold Obligations.GenContinues
  intro s a c he hc hs ha hc0 hwhole hfits
  have hready : Ready s := ⟨he, hc, hs⟩
  have hsum : (a + c).toNat = a.toNat + c.toNat := BitVec.toNat_add_of_lt hfits
  have hsum0 : a + c ≠ 0 := by
    intro h
    have : a.toNat + c.toNat = 0 := hsum.symm.trans (congrArg BitVec.toNat h)
    exact ha (BitVec.eq_of_toNat_eq (Nat.eq_zero_of_add_eq_zero_right this))
  rw [exec_gen_of_seeded hready ha, andThen, exec_gen_of_seeded (ready_generate hready _) hc0,
    exec_gen_of_seeded hready hsum0, hsum, generate_add hwhole]

/-! ### Colliding seeds (R91 item 5) -/

/-- What a GEN leaves is decided by the first step's writes and digest. -/
theorem generate_congr {count : Nat} (h : count ≠ 0) {s t : State} (hstep : genStep s = genStep t)
    (hdigest : stepDigest s = stepDigest t) : generate count s = generate count t := by
  rw [generate, generate, ← Nat.succ_pred_eq_of_pos (stepCount_pos h), Nat.succ_eq_add_one, genLoop,
    genLoop, hstep, hdigest]

/-- A step reads `Z` only through the candidate (R82). -/
theorem stepDigest_congr_z {s : State} {a b : Words 16}
    (h : wordsValue a % modulus s.sb = wordsValue b % modulus s.sb) :
    stepDigest { s with z := a } = stepDigest { s with z := b } := by
  simp only [stepDigest, serializedZ, zCandidate, h]

theorem genStep_congr_z {s : State} {a b : Words 16}
    (h : wordsValue a % modulus s.sb = wordsValue b % modulus s.sb) :
    genStep { s with z := a } = genStep { s with z := b } := by
  simp only [genStep, nextZ, zCandidate, h, stepDigest_congr_z h, State.advance]

/-- Settles O53: the first step reduces `0` and `M` to the same candidate. -/
theorem zeroAndModulusCollide : Obligations.ZeroAndModulusCollide := by
  unfold Obligations.ZeroAndModulusCollide
  intro s c _ hhi he hc hs h0
  have hmod : wordsValue (valueWords 16 0) % modulus s.sb =
      wordsValue (valueWords 16 (modulus s.sb)) % modulus s.sb := by
    rw [wordsValue_valueWords_of_sb hhi (Nat.two_pow_pos _),
      wordsValue_valueWords_of_sb hhi (modulus_lt _), Nat.zero_mod, Nat.mod_self]
  have hcount : c.toNat ≠ 0 := fun h => h0 (BitVec.eq_of_toNat_eq h)
  rw [exec_gen_of_seeded (s := { s with z := valueWords 16 0 }) ⟨he, hc, hs⟩ h0,
    exec_gen_of_seeded (s := { s with z := valueWords 16 (2 ^ s.sb.toNat - 1) }) ⟨he, hc, hs⟩ h0]
  exact congrArg _ (generate_congr hcount (genStep_congr_z hmod) (stepDigest_congr_z hmod))

end Sys2Proof.Machine

/-! Frames (spec/41_generator.md R90 and the "Writes" lines): what each command leaves alone, in the state
and through the window. -/

namespace Sys2Proof.Machine

/-- Settles O47: the writes of each case of `exec_next`, field by field. -/
theorem commandFrames : Obligations.CommandFrames := by
  unfold Obligations.CommandFrames
  intro i s t h
  cases exec_next h with
  | unchanged h | fault _ _ _ h => simp [h]
  | cleared hi h | wasReset hi h | configured _ hi _ _ h | seeded hi _ _ _ h | drawn hi _ _ h
  | compressed _ hi _ _ h => simp [hi, h]
  | generated c hi _ _ _ h =>
    rw [generate_frame] at h
    simp [hi, h]

/-- Settles O48: a register shows its field, which `commandFrames` keeps where the register is not among
those the command writes. -/
theorem windowFrames : Obligations.WindowFrames := by
  unfold Obligations.WindowFrames
  intro i s t r h hstatus hcmd hw
  obtain ⟨-, -, -, hstaging, hdigest, hconfig, hgenerator, -, -⟩ := commandFrames i s t h
  have hreset : i ≠ .reset := by rintro rfl; exact hw
  cases r with
  | status => exact absurd rfl hstatus
  | cmd => rfl
  | aux j | din j => simp only [readReg, hstaging hreset]
  | digest j =>
    have hcompress : ∀ n, i ≠ .compress n := by rintro _ rfl; exact hw
    simp only [readReg, hdigest hreset hcompress]
  | sb | caux j =>
    have hcfg : ∀ n, i ≠ .cfg n := by rintro _ rfl; exact hw
    simp only [readReg, sbWord, hconfig hreset hcfg]
  | z j | prev j =>
    have hcfg : ∀ n, i ≠ .cfg n := by rintro _ rfl; exact hw
    have hseed : i ≠ .seed := by rintro rfl; exact hw
    have hseedrnd : i ≠ .seedrnd := by rintro rfl; exact hw
    have hgen : ∀ c, i ≠ .gen c := by rintro _ rfl; exact hw
    obtain ⟨-, hkept⟩ := hgenerator hreset hcfg hseed hseedrnd
    simp only [readReg, hkept hgen]

end Sys2Proof.Machine

/-! Reproducibility (spec/41_generator.md R93): GENs on two blocks whose generators agree append the same
bits, and the construction makes the generator the same whatever the state before it. -/

namespace Sys2Proof.Machine

/-! ### A generator on another block -/

/-- The block `s` with the generator of `g`: its registers and flags, its `ERR`, and its bits appended to
what `s` had emitted. -/
def State.withGenerator (s g : State) : State :=
  { s with sb := g.sb, caux := g.caux, z := g.z, prev := g.prev, configured := g.configured,
           seeded := g.seeded, err := g.err, out := s.out ++ g.out }

theorem emit_withGenerator (s g : State) (bits : List Bool) :
    (s.withGenerator g).emit bits = s.withGenerator (g.emit bits) := by
  simp only [State.withGenerator, State.emit, List.append_assoc]

section SameIvFromAux

variable {s g : State} (hiv : s.build.ivFromAux = g.build.ivFromAux)
include hiv

theorem stepDigest_withGenerator : stepDigest (s.withGenerator g) = stepDigest g :=
  congrArg (gDigest · g.caux (serializedZ g)) hiv

theorem genStep_withGenerator : genStep (s.withGenerator g) = s.withGenerator (genStep g) :=
  congrArg ((s.withGenerator g).advance (valueWords 16 (nextZ g))) (stepDigest_withGenerator hiv)

theorem genLoop_withGenerator (n count : Nat) :
    genLoop n count (s.withGenerator g) = s.withGenerator (genLoop n count g) := by
  induction n generalizing count g with
  | zero => rfl
  | succ n ih =>
    rw [genLoop, genLoop, genStep_withGenerator hiv, stepDigest_withGenerator hiv,
      emit_withGenerator]
    refine ih ?_ _
    exact hiv

theorem generate_withGenerator (count : Nat) :
    generate count (s.withGenerator g) = s.withGenerator (generate count g) :=
  genLoop_withGenerator hiv _ _

/-- GEN looks at nothing but the generator and `IV_FROM_AUX` (R91 item 4). -/
theorem exec_gen_withGenerator {t : State} {c : Imm} (h : exec (.gen c) g = .next t) :
    exec (.gen c) (s.withGenerator g) = .next (s.withGenerator t) := by
  obtain ⟨he, rfl⟩ | ⟨he, rfl, rfl⟩ | ⟨he, hc, hs, rfl⟩ | ⟨he, hc, hs, rfl⟩ := execGen_next h
  · exact exec_of_pending he nofun nofun
  · exact unlessPending_clear _ he
  · exact exec_gen_of_unseeded he hc hs
  · rw [exec_gen_of_seeded (s := s.withGenerator g) ⟨he, hs⟩ hc, generate_withGenerator hiv]

end SameIvFromAux

/-! ### Sequences of commands -/

theorem execAll_cons_next {i : Instr} {is : List Instr} {s t : State}
    (h : execAll (i :: is) s = .next t) : ∃ u, exec i s = .next u ∧ execAll is u = .next t := by
  obtain ⟨u, hu⟩ := exec_completes i s
  rw [execAll_cons, hu] at h
  exact ⟨u, hu, h⟩

theorem execAll_completes (is : List Instr) (s : State) : ∃ t, execAll is s = .next t := by
  induction is generalizing s with
  | nil => exact ⟨s, rfl⟩
  | cons i is ih =>
    obtain ⟨u, hu⟩ := exec_completes i s
    rw [execAll_cons, hu]
    exact ih u

/-! ### GENs as accesses -/

/-- The word of GEN with any count does what `exec` says, 0 being the reserved word that raises
BadCommand (R48, R103). -/
theorem performCommand_encode_gen (c : Imm) (s : State) :
    performCommand (encode (.gen c)) s = exec (.gen c) s := by
  by_cases hc : c = 0
  · subst hc
    have hreserved : decode (encode (.gen 0)) = .error .genZero := by decide
    exact performCommand_of_reserved hreserved s
  · exact performCommand_encode (i := .gen c) (bne_iff_ne.2 hc) s

theorem runAccesses_gen {s t : State} (hb : s.build.wf) {c : Imm} {l : List Access}
    (h : exec (.gen c) (s.setPending l) = .next (t.setPending l)) :
    runAccesses (issue s.build (.gen c) :: l) s = runAccesses l t :=
  runAccesses_wr hb ((performCommand_encode_gen c _).trans h)

/-- The accesses of some GENs. -/
def genAccesses (b : Build) (cs : List Imm) : List Access := cs.map fun c => issue b (.gen c)

theorem runAccesses_gens_withGenerator {cs : List Imm} {s g t : State} (hb : s.build.wf)
    (hiv : s.build.ivFromAux = g.build.ivFromAux) (h : execAll (cs.map .gen) g = .next t) :
    runAccesses (genAccesses s.build cs) (s.withGenerator g)
      = .next ((s.withGenerator t).setPending []) := by
  induction cs generalizing g with
  | nil =>
    obtain rfl : g = t := Host.Outcome.next.inj h
    exact runAccesses_nil _
  | cons c cs ih =>
    obtain ⟨u, hu, h⟩ := execAll_cons_next h
    have hrun : runAccesses (genAccesses s.build (c :: cs)) (s.withGenerator g) =
        runAccesses (genAccesses s.build cs) (s.withGenerator u) :=
      runAccesses_gen (s := s.withGenerator g) hb
        (exec_gen_withGenerator (s := s.setPending (genAccesses s.build cs)) hiv hu)
    have hiv' : s.build.ivFromAux = u.build.ivFromAux := by rw [exec_build hu, hiv]
    exact hrun.trans (ih hiv' h)

/-- GENs on a ready generator leave it ready, and emit as many bits as they count. -/
theorem execAll_gens_of_ready {cs : List Imm} (hpos : ∀ c ∈ cs, c ≠ 0) {s t : State} (hs : Ready s)
    (h : execAll (cs.map .gen) s = .next t) :
    Ready t ∧ t.out.length = s.out.length + (cs.map BitVec.toNat).sum := by
  induction cs generalizing s with
  | nil =>
    obtain rfl : s = t := Host.Outcome.next.inj h
    exact ⟨hs, rfl⟩
  | cons c cs ih =>
    obtain ⟨hc, hcs⟩ := List.forall_mem_cons.1 hpos
    rw [List.map_cons, execAll_cons, exec_gen_of_seeded hs hc] at h
    obtain ⟨ht, hlen⟩ := ih hcs (ready_generate hs _) h
    obtain ⟨bits, hout, hbits⟩ := exists_generate_out_eq c.toNat s
    refine ⟨ht, ?_⟩
    rw [hlen, hout, List.length_append, hbits, List.map_cons, List.sum_cons, Nat.add_assoc]

theorem runAccesses_gens_of_pending {s : State} (hb : s.build.wf) (he : s.err ≠ .none)
    (cs : List Imm) : runAccesses (genAccesses s.build cs) s = .next (s.setPending []) := by
  induction cs with
  | nil => exact runAccesses_nil s
  | cons c cs ih =>
    have hdropped : exec (.gen c) (s.setPending (genAccesses s.build cs)) =
        .next (s.setPending (genAccesses s.build cs)) := exec_of_pending he nofun nofun
    exact (runAccesses_gen hb hdropped).trans ih

/-! ### The construction -/

/-- The accesses of `ldaux h ; cfg n ; ldseed v ; seed`, followed by others. -/
def constructAccesses (b : Build) (h : BitVec 160) (n : Imm) (v : BitVec 512) (l : List Access) :
    List Access :=
  ldaux b h ++ (issue b (.cfg n) :: (ldseed b v ++ (issue b .seed :: l)))

theorem expandProgram_construct (b : Build) (h : BitVec 160) (n : Imm) (v : BitVec 512)
    (cs : List Imm) :
    expandProgram b ([.ldaux h, .command (.cfg n), .ldseed v, .command .seed]
        ++ cs.map fun c => .command (.gen c)) = constructAccesses b h n v (genAccesses b cs) := by
  have hgens : (cs.map fun c => AsmLine.command (.gen c)).flatMap (expandLine b)
      = genAccesses b cs := by
    rw [List.flatMap_map]
    exact List.map_eq_flatMap.symm
  rw [expandProgram, List.flatMap_append, hgens]
  simp [constructAccesses, expandLine]

/-- The generator that the construction makes (R76, R78). -/
def constructed (iv : Bool) (h : BitVec 160) (n : Imm) (v : BitVec 512) : State :=
  { State.reset with
    build := { ivFromAux := iv, base := 0 }, sb := n.setWidth 10, caux := valueWords 5 h.toNat,
    z := valueWords 16 v.toNat, configured := true, seeded := true }

theorem wordsValue_valueWords_toNat {n : Nat} (v : BitVec (32 * n)) :
    wordsValue (valueWords n v.toNat) = v.toNat :=
  wordsValue_valueWords_of_lt v.isLt

/-- The operands the construction accepts (R75, R79). -/
def ValidOperands (n : Imm) (v : BitVec 512) : Prop :=
  (160 ≤ n.toNat ∧ n.toNat ≤ 512) ∧ v.toNat < 2 ^ n.toNat

/-- The block after `ldaux h` (R53). -/
def State.loadAux (s : State) (h : BitVec 160) : State := { s with aux := valueWords 5 h.toNat }

/-- The block after `ldseed v` (R53). -/
def State.loadDin (s : State) (v : BitVec 512) : State := { s with din := valueWords 16 v.toNat }

/-- After a legal CFG of `n` the loaded seed is in the range of SEED iff it has at most `n` bits. -/
theorem loadDin_configure_lt_iff (s : State) {n : Imm} (hn : n.toNat ≤ 512) (v : BitVec 512) :
    wordsValue ((s.configure (n.setWidth 10)).loadDin v).din
      < 2 ^ ((s.configure (n.setWidth 10)).loadDin v).sb.toNat ↔ v.toNat < 2 ^ n.toNat := by
  rw [State.loadDin, wordsValue_valueWords_toNat (n := 16) v, State.configure_sb,
    toNat_setWidth_seedBits hn]

section Construction

variable {s : State} {h : BitVec 160} {n : Imm} {v : BitVec 512} (hb : s.build.wf)
include hb

/-- The construction, given what CFG and SEED answer on the loaded staging registers. -/
theorem runAccesses_construct {t u : State} {l : List Access} (hbuild : t.build = s.build)
    (hcfg : ∀ k, exec (.cfg n) ((s.loadAux h).setPending k) = .next (t.setPending k))
    (hseed : exec .seed ((t.loadDin v).setPending l) = .next (u.setPending l)) :
    runAccesses (constructAccesses s.build h n v l) s = runAccesses l u := by
  calc runAccesses (constructAccesses s.build h n v l) s
    _ = runAccesses (issue s.build (.cfg n) :: (ldseed s.build v ++ (issue s.build .seed :: l)))
          (s.loadAux h) := runAccesses_ldaux hb h _
    _ = runAccesses (ldseed s.build v ++ (issue s.build .seed :: l)) t :=
      runAccesses_issue (s := s.loadAux h) hb rfl (hcfg _)
    _ = runAccesses (issue s.build .seed :: l) (t.loadDin v) := by
      rw [← hbuild] at hb ⊢
      exact runAccesses_ldseed hb v _
    _ = runAccesses l u := by
      rw [← hbuild] at hb ⊢
      exact runAccesses_issue (s := t.loadDin v) hb rfl hseed

variable (he : s.err = .none)
include he

theorem runAccesses_construct_of_legal (hn : 160 ≤ n.toNat ∧ n.toNat ≤ 512) {u : State}
    {l : List Access}
    (hseed : exec .seed ((((s.loadAux h).configure (n.setWidth 10)).loadDin v).setPending l)
      = .next (u.setPending l)) :
    runAccesses (constructAccesses s.build h n v l) s = runAccesses l u :=
  runAccesses_construct hb (t := (s.loadAux h).configure (n.setWidth 10)) rfl
    (fun k => exec_cfg_of_legal (s := (s.loadAux h).setPending k) he hn) hseed

theorem runAccesses_construct_of_valid (hvalid : ValidOperands n v) (l : List Access) :
    runAccesses (constructAccesses s.build h n v l) s = runAccesses l
      (((s.loadAux h).loadDin v).withGenerator (constructed s.build.ivFromAux h n v)) := by
  obtain ⟨hn, hv⟩ := hvalid
  let staged : State := ((s.loadAux h).configure (n.setWidth 10)).loadDin v
  have hseeded : staged.loadSeed staged.din =
      ((s.loadAux h).loadDin v).withGenerator (constructed s.build.ivFromAux h n v) := by
    simp [staged, State.withGenerator, constructed, State.reset, State.loadAux, State.loadDin,
      State.configure, State.loadSeed, he]
  rw [← hseeded]
  exact runAccesses_construct_of_legal hb he hn
    (exec_seed_of_lt (s := staged.setPending l) he rfl
      ((loadDin_configure_lt_iff (s.loadAux h) hn.2 v).2 hv))

/-- On operands that are not valid CFG or SEED raises a fault, and nothing is emitted. -/
theorem exists_runAccesses_construct_of_not_valid (hinvalid : ¬ValidOperands n v) :
    ∃ t : State, t.build = s.build ∧ t.out = s.out ∧ t.err ≠ .none ∧
      ∀ l, runAccesses (constructAccesses s.build h n v l) s = runAccesses l t := by
  by_cases hn : 160 ≤ n.toNat ∧ n.toNat ≤ 512
  · let staged : State := ((s.loadAux h).configure (n.setWidth 10)).loadDin v
    have hrange : 2 ^ staged.sb.toNat ≤ wordsValue staged.din :=
      Nat.le_of_not_lt fun hlt => hinvalid ⟨hn, (loadDin_configure_lt_iff _ hn.2 v).1 hlt⟩
    exact ⟨staged.setErr .seedRange, rfl, rfl, by simp, fun l =>
      runAccesses_construct_of_legal hb he hn
        (exec_seed_of_le (s := staged.setPending l) he rfl hrange)⟩
  · let faulted : State := (s.loadAux h).setErr .validation
    have hfault : (faulted.loadDin v).err ≠ .none := by simp [faulted, State.loadDin]
    exact ⟨faulted.loadDin v, rfl, rfl, hfault, fun l =>
      runAccesses_construct hb (t := faulted) rfl
        (fun k => exec_cfg_of_illegal (s := (s.loadAux h).setPending k) he hn)
        (exec_of_pending (s := (faulted.loadDin v).setPending l) hfault nofun nofun)⟩

end Construction

/-- Settles O54: operands that are not valid leave a fault pending and the GENs are dropped; valid ones make
the generator `constructed`, and the GENs emit on every block what they emit from it. -/
theorem reproducibility : Obligations.Reproducibility := by
  unfold Obligations.Reproducibility
  intro iv h n v cs
  simp only [expandProgram_construct]
  by_cases hvalid : ValidOperands n v
  · obtain ⟨t, ht⟩ := execAll_completes (cs.map .gen) (constructed iv h n v)
    have hready (hpos : ∀ c ∈ cs, c ≠ 0) : Ready t ∧ t.out.length = (cs.map BitVec.toNat).sum := by
      simpa [constructed, State.reset] using
        execAll_gens_of_ready hpos (s := constructed iv h n v) ⟨rfl, rfl, rfl⟩ ht
    refine ⟨t.out, fun s hb hiv he => ?_, fun _ _ _ hpos => (hready hpos).2⟩
    subst hiv
    exact ⟨_, (runAccesses_construct_of_valid hb he hvalid _).trans
      (runAccesses_gens_withGenerator
        (s := (s.loadAux h).loadDin v) hb rfl ht),
      rfl, fun _ _ _ hpos => (hready hpos).1.1⟩
  · refine ⟨[], fun s hb _ he => ?_, fun hlo hhi hv _ => absurd ⟨⟨hlo, hhi⟩, hv⟩ hvalid⟩
    obtain ⟨t, hbuild, hout, hfault, hrun⟩ :=
      exists_runAccesses_construct_of_not_valid (h := h) hb he hvalid
    rw [hrun, ← hbuild]
    exact ⟨_, runAccesses_gens_of_pending (hbuild ▸ hb) hfault cs, by simpa using hout,
      fun hlo hhi hv _ => absurd ⟨⟨hlo, hhi⟩, hv⟩ hvalid⟩

end Sys2Proof.Machine

/-! Control commands (spec/42_control.md R95 to R97): NOP, CLRERR and RESET have one answer in every state,
a fault pending or not. -/

namespace Sys2Proof.Machine

/-- Whether a command that answers its own state acts or is dropped makes no difference. -/
theorem unlessPending_next_self (s : State) : unlessPending s (.next s) = .next s :=
  ite_self _

theorem exec_nop (s : State) : exec .nop s = .next s := unlessPending_next_self s

theorem exec_clrerr (s : State) : exec .clrerr s = .next (s.setErr .none) := rfl

theorem exec_reset (s : State) : exec .reset s = .next s.resetRegisters := rfl

/-- Settles O24: NOP answers the state it finds, and so does the drop of R106. -/
theorem nopChangesNothing : Obligations.NopChangesNothing := by
  unfold Obligations.NopChangesNothing
  exact ⟨by decide, exec_nop⟩

/-- Settles O35: CLRERR is the return from a fault, which asks nothing of `ERR` and writes only it. -/
theorem clrerrClears : Obligations.ClrerrClears := by
  unfold Obligations.ClrerrClears
  exact ⟨by decide, exec_clrerr⟩

/-- Settles O36: RESET answers `resetRegisters` whatever `ERR` holds, whose writes are the table of R28. -/
theorem resetCommand : Obligations.ResetCommand := by
  unfold Obligations.ResetCommand
  exact ⟨by decide, exec_reset⟩

end Sys2Proof.Machine

/-! Faults (spec/60_exceptions.md R100 to R109): the checks a command makes on the state and on its operand
decide which code it raises, a fault writes `ERR` alone, and while one is pending only CLRERR and RESET
act. -/

namespace Sys2Proof.Machine

/-! ### The checks of a command (R107) -/

/-- R107 item 3: the state that a command needs is missing. -/
def MissingState (s : State) : Instr → Prop
  | .seed | .seedrnd => s.configured = false
  | .gen _ => s.configured = false ∨ s.seeded = false
  | _ => False

/-- R107 item 4: the operand of a command is out of range, which is the fault `c`. -/
def OutOfRange (s : State) (i : Instr) (c : ErrCode) : Prop :=
  match i with
  | .cfg n => (n.toNat < 160 ∨ 512 < n.toNat) ∧ c = .validation
  | .compress n => 64 < n.toNat ∧ c = .invalidInputLength
  | .seed => 2 ^ s.sb.toNat ≤ wordsValue s.din ∧ c = .seedRange
  | _ => False

theorem gen_wf_iff (c : Imm) : (Instr.gen c).WF ↔ c ≠ 0 := bne_iff_ne

/-- GEN's check of both flags (R87). -/
theorem not_configured_and_seeded_iff (s : State) :
    ¬(s.configured = true ∧ s.seeded = true) ↔ s.configured = false ∨ s.seeded = false := by
  rw [not_and_or, Bool.not_eq_true, Bool.not_eq_true]

theorem exec_of_missingState {i : Instr} {s : State} (he : s.err = .none) (hi : i.WF)
    (h : MissingState s i) : exec i s = .next (s.setErr .sequence) := by
  cases i with
  | seed => exact exec_seed_of_unconfigured he h
  | seedrnd => exact exec_seedrnd_of_unconfigured he h
  | gen c => exact exec_gen_of_unseeded he ((gen_wf_iff c).1 hi) ((not_configured_and_seeded_iff s).2 h)
  | nop | cfg _ | compress _ | clrerr | reset => exact h.elim

theorem exec_of_outOfRange {i : Instr} {s : State} {c : ErrCode} (he : s.err = .none)
    (hm : ¬MissingState s i) (h : OutOfRange s i c) : exec i s = .next (s.setErr c) := by
  cases i with
  | cfg n =>
    obtain ⟨hn, rfl⟩ := h
    exact exec_cfg_of_illegal he (by omega)
  | compress n =>
    obtain ⟨hn, rfl⟩ := h
    exact exec_compress_of_lt he hn
  | seed =>
    obtain ⟨hr, rfl⟩ := h
    exact exec_seed_of_le he (Bool.eq_true_of_not_eq_false hm) hr
  | nop | seedrnd | gen _ | clrerr | reset => exact h.elim

/-- A command that passes every check raises no fault: each path is the one its rule takes then. -/
theorem exec_of_checks_pass {i : Instr} {s : State} (he : s.err = .none) (hi : i.WF)
    (hm : ¬MissingState s i) (ho : ∀ c, ¬OutOfRange s i c) :
    ∃ t, exec i s = .next t ∧ t.err = .none := by
  cases i with
  | nop => exact ⟨s, exec_nop s, he⟩
  | cfg n =>
    have hlegal : ¬(n.toNat < 160 ∨ 512 < n.toNat) := fun hn => ho _ ⟨hn, rfl⟩
    exact ⟨_, exec_cfg_of_legal he (by omega), he⟩
  | seed =>
    have hr : wordsValue s.din < 2 ^ s.sb.toNat := Nat.lt_of_not_le fun hr => ho _ ⟨hr, rfl⟩
    exact ⟨_, exec_seed_of_lt he (Bool.eq_true_of_not_eq_false hm) hr, he⟩
  | seedrnd =>
    exact ⟨_, exec_seedrnd_of_configured he (Bool.eq_true_of_not_eq_false hm), by simpa using he⟩
  | gen c =>
    have hs : s.configured = true ∧ s.seeded = true :=
      not_not.1 fun hs => hm ((not_configured_and_seeded_iff s).1 hs)
    have hready : Ready s := ⟨he, hs⟩
    exact ⟨_, exec_gen_of_seeded hready ((gen_wf_iff c).1 hi), (ready_generate hready c.toNat).1⟩
  | compress n =>
    have hn : n.toNat ≤ 64 := Nat.le_of_not_lt fun hn => ho _ ⟨hn, rfl⟩
    exact ⟨_, exec_compress_of_le he hn, he⟩
  | clrerr => exact ⟨_, exec_clrerr s, rfl⟩
  | reset => exact ⟨_, exec_reset s, rfl⟩

/-- Settles O44: a reserved word by `performCommand_of_reserved`, and a command by its checks. -/
theorem faultPriority : Obligations.FaultPriority := by
  unfold Obligations.FaultPriority
  intro w s missing outOfRange
  refine ⟨performCommand_of_pending, fun he r hr => ?_, fun he i hw hm => ?_,
    fun he i c hw hm ho => ?_, fun he i t hw hm ho ht => ?_⟩
  · exact (performCommand_of_reserved hr s).trans (unlessPending_clear _ he)
  · exact (performCommand_of_decode hw s).trans (exec_of_missingState he (wf_of_decode hw) hm)
  · exact (performCommand_of_decode hw s).trans (exec_of_outOfRange he hm ho)
  · obtain ⟨u, hu, hclear⟩ := exec_of_checks_pass he (wf_of_decode hw) hm ho
    cases ((performCommand_of_decode hw s).trans hu).symm.trans ht
    exact hclear

/-- Settles O41: each command by its answer where its check fails, a reserved word by
`performCommand_of_reserved`. -/
theorem ownFaults : Obligations.OwnFaults := by
  unfold Obligations.OwnFaults
  intro s he
  have hseed : performCommand 0x02000000 s = exec .seed s :=
    performCommand_encode (i := .seed) rfl s
  have hseedrnd : performCommand 0x03000000 s = exec .seedrnd s :=
    performCommand_encode (i := .seedrnd) rfl s
  have hreserved (w : Word) (r : Reserved) (hw : decode w = .error r) :
      performCommand w s = .next (s.setErr .badCommand) :=
    (performCommand_of_reserved hw s).trans (unlessPending_clear _ he)
  refine ⟨fun hc => ?_, fun hc => ?_, fun w c hw hs => ?_, hreserved, ?_, fun hc hr => ?_⟩
  · exact hseed.trans (exec_seed_of_unconfigured he hc)
  · exact hseedrnd.trans (exec_seedrnd_of_unconfigured he hc)
  · exact (performCommand_of_decode hw s).trans
      (exec_of_missingState (i := .gen c) he (wf_of_decode hw) hs)
  · exact hreserved 0x04000000 .genZero (by decide)
  · exact hseed.trans (exec_seed_of_le he hc hr)

/-! ### Which command raises which code (R100) -/

/-- What a command can do to `ERR`: nothing, clear it, or set it to the code of the check that failed. -/
theorem exec_err_cases {i : Instr} {s t : State} (hi : i.WF) (h : exec i s = .next t) :
    t.err = s.err ∨ (t.err = .none ∧ (i = .clrerr ∨ i = .reset)) ∨
      (t.err = .sequence ∧ MissingState s i) ∨ OutOfRange s i t.err := by
  by_cases hclear : i = .clrerr ∨ i = .reset
  · have ht : t.err = .none := by
      obtain rfl | rfl := hclear <;> cases h <;> rfl
    exact .inr (.inl ⟨ht, hclear⟩)
  by_cases he : s.err = .none
  case neg =>
    obtain ⟨hclrerr, hreset⟩ := not_or.1 hclear
    cases (exec_of_pending he hclrerr hreset).symm.trans h
    exact .inl rfl
  by_cases hm : MissingState s i
  · cases (exec_of_missingState he hi hm).symm.trans h
    exact .inr (.inr (.inl ⟨rfl, hm⟩))
  by_cases ho : ∃ c, OutOfRange s i c
  · obtain ⟨c, hc⟩ := ho
    cases (exec_of_outOfRange he hm hc).symm.trans h
    exact .inr (.inr (.inr hc))
  · obtain ⟨u, hu, hclear⟩ := exec_of_checks_pass he hi hm (not_exists.1 ho)
    cases hu.symm.trans h
    exact .inl (hclear.trans he.symm)

theorem seed_or_gen_of_missingState {s : State} {i : Instr} (h : MissingState s i) :
    i = .seed ∨ i = .seedrnd ∨ ∃ c, i = .gen c := by
  cases i with
  | seed => exact .inl rfl
  | seedrnd => exact .inr (.inl rfl)
  | gen c => exact .inr (.inr ⟨c, rfl⟩)
  | nop | cfg _ | compress _ | clrerr | reset => exact h.elim

theorem code_of_outOfRange {s : State} {i : Instr} {c : ErrCode} (h : OutOfRange s i c) :
    (c = .validation ∧ ∃ n, i = .cfg n) ∨ (c = .invalidInputLength ∧ ∃ n, i = .compress n) ∨
      (c = .seedRange ∧ i = .seed) := by
  cases i with
  | cfg n => exact .inl ⟨h.2, n, rfl⟩
  | compress n => exact .inr (.inl ⟨h.2, n, rfl⟩)
  | seed => exact .inr (.inr ⟨h.2, rfl⟩)
  | nop | seedrnd | gen _ | clrerr | reset => exact h.elim

/-- BadCommand is no code of a command, so it comes from a reserved word only. -/
theorem exec_err_ne_badCommand {i : Instr} {s t : State} (hi : i.WF) (h : exec i s = .next t)
    (hs : s.err ≠ .badCommand) : t.err ≠ .badCommand := by
  intro ht
  obtain hkept | ⟨hcleared, -⟩ | ⟨hseq, -⟩ | ho := exec_err_cases hi h
  · exact hs (hkept.symm.trans ht)
  · cases ht.symm.trans hcleared
  · cases ht.symm.trans hseq
  · obtain ⟨hc, -⟩ | ⟨hc, -⟩ | ⟨hc, -⟩ := code_of_outOfRange ho <;> cases ht.symm.trans hc

/-- Settles O40: the rows by `exec_err_cases`; a word that raises BadCommand encodes no command, by
`exec_err_ne_badCommand`. -/
theorem errorCodes : Obligations.ErrorCodes := by
  unfold Obligations.ErrorCodes
  refine ⟨fun i s t hi h hne => ?_, fun w s t h ht hs => ?_, rfl, rfl, rfl, rfl, rfl, rfl⟩
  · obtain hkept | ⟨hcleared, hi⟩ | ⟨hseq, hm⟩ | ho := exec_err_cases hi h
    · exact absurd hkept hne
    · rw [hcleared]; exact hi
    · rw [hseq]; exact seed_or_gen_of_missingState hm
    · obtain ⟨hc, hi⟩ | ⟨hc, hi⟩ | ⟨hc, hi⟩ := code_of_outOfRange ho <;> rw [hc] <;> exact hi
  · cases hw : decode w with
    | error r => exact ⟨r, rfl⟩
    | ok i =>
      rw [performCommand_of_decode hw] at h
      exact absurd ht (exec_err_ne_badCommand (wf_of_decode hw) h hs)

/-! ### A new fault (R104, R108, R109) -/

theorem setErr_setErr (s : State) (c d : ErrCode) : (s.setErr c).setErr d = s.setErr d := rfl

/-- Writing the code that is there changes nothing. -/
theorem setErr_of_err_eq {s : State} {c : ErrCode} (h : s.err = c) : s.setErr c = s := by
  rw [← h]; rfl

/-- A command that leaves a new code found none pending and wrote only `ERR` (R104). -/
theorem exec_newFault {i : Instr} {s t : State} (h : exec i s = .next t) (ht : t.err ≠ .none)
    (hne : t.err ≠ s.err) : s.err = .none ∧ t = s.setErr t.err := by
  cases exec_next h with
  | fault c he _ h => exact ⟨he, h ▸ rfl⟩
  | cleared _ h | wasReset _ h => exact absurd (by simp [h]) ht
  | unchanged h | configured _ _ _ _ h | seeded _ _ _ _ h | drawn _ _ _ h | compressed _ _ _ _ h =>
    exact absurd (by simp [h]) hne
  | generated c _ _ _ _ h => exact absurd (by rw [h, generate_frame]) hne

/-- `exec_newFault` for every word: a reserved one is dropped or raises BadCommand. -/
theorem performCommand_newFault {w : Word} {s t : State} (h : performCommand w s = .next t)
    (ht : t.err ≠ .none) (hne : t.err ≠ s.err) : s.err = .none ∧ t = s.setErr t.err := by
  cases hw : decode w with
  | ok i =>
    rw [performCommand_of_decode hw] at h
    exact exec_newFault h ht hne
  | error r =>
    rw [performCommand_of_reserved hw] at h
    obtain ⟨-, rfl⟩ | ⟨he, h⟩ := unlessPending_next h
    · exact absurd rfl hne
    · exact ⟨he, raise_next.1 h ▸ rfl⟩

/-- Settles O42. -/
theorem faultWritesOnlyErr : Obligations.FaultWritesOnlyErr :=
  fun _ _ _ h ht hne => (performCommand_newFault h ht hne).2

/-- Settles O45: the fault wrote `ERR` alone, and CLRERR writes back the code that was there. -/
theorem clrerrUndoesFault : Obligations.ClrerrUndoesFault := by
  unfold Obligations.ClrerrUndoesFault
  intro w s t he h ht
  obtain ⟨-, hfault⟩ := performCommand_newFault h ht (he ▸ ht)
  rw [exec_clrerr, hfault, setErr_setErr, setErr_of_err_eq he]

/-- Settles O46: a word that neither keeps nor clears the code would have found none pending. -/
theorem faultsDoNotNest : Obligations.FaultsDoNotNest := by
  unfold Obligations.FaultsDoNotNest
  intro w s t he h
  by_contra hnew
  obtain ⟨hne, ht⟩ := not_or.1 hnew
  exact he (performCommand_newFault h ht hne).1

/-! ### A pending fault (R106) -/

/-- Settles O43: the words by `performCommand_of_pending` and the answers of CLRERR and RESET; reads and
staging writes do not look at `ERR`. -/
theorem faultsAreSticky : Obligations.FaultsAreSticky := by
  unfold Obligations.FaultsAreSticky
  intro s he
  refine ⟨fun w => performCommand_of_pending he, ?_, ?_, fun hb => ⟨fun r v hv => ?_, fun j v => ?_,
    fun j v => ?_⟩⟩
  · exact (performCommand_encode (i := .clrerr) rfl s).trans (exec_clrerr s)
  · exact (performCommand_encode (i := .reset) rfl s).trans (exec_reset s)
  · exact performRead_of_readReg hb hv
  · exact performWrite_offset hb (.aux j) v
  · exact performWrite_offset hb (.din j) v

end Sys2Proof.Machine

/-! Completion and reset (spec/70_reset_and_hazards.md R122, R123, R138): every command answers a next state;
what a command and a reset inside one leave on `OUT`. -/

namespace Sys2Proof.Machine

/-- Settles O9. -/
theorem everyCommandCompletes : Obligations.EveryCommandCompletes := exec_completes

/-! ### `OUT` after a command -/

/-- GEN appends its bits, and no other command writes `OUT`. -/
theorem exec_out_prefix {i : Instr} {s t : State} (h : exec i s = .next t) : s.out <+: t.out := by
  cases exec_next h with
  | generated c _ _ _ _ h => exact h ▸ genLoop_out_prefix _ _ s
  | unchanged h | fault _ _ _ h | cleared _ h | wasReset _ h | configured _ _ _ _ h | seeded _ _ _ _ h
  | drawn _ _ _ h | compressed _ _ _ _ h => simp [h]

theorem exec_out_of_not_gen {i : Instr} {s t : State} (hi : ∀ c, i ≠ .gen c)
    (h : exec i s = .next t) : t.out = s.out := by
  obtain ⟨-, -, -, -, -, -, -, hout, -⟩ := commandFrames i s t h
  exact hout hi

/-- A reserved word is no GEN either: it writes at most `ERR`. -/
theorem performCommand_out_of_not_gen {w : Word} {s t : State} (hw : ∀ c, decode w ≠ .ok (.gen c))
    (h : performCommand w s = .next t) : t.out = s.out := by
  obtain ⟨i, hi, h⟩ | rfl | rfl := performCommand_next h
  · exact exec_out_of_not_gen (fun c hc => hw c (hc ▸ hi)) h
  · rfl
  · rfl

/-! ### A reset inside a command (R122) -/

theorem emitted_of_out_eq {s t : State} {bits : List Bool} (h : t.out = s.out ++ bits) :
    emitted s t = bits := by
  rw [emitted, h, List.drop_left]

theorem performAccess_hardResetDuring {w : Word} {s t : State} (h : performCommand w s = .next t) :
    performAccess (.hardResetDuring w) s = .next (resetAfter (emitted s t) s) := by
  rw [performAccess, performResetDuring, h]

/-- Settles O38: the bits of the interrupted command are those GEN appends, and any other word appends
none to take a prefix of. -/
theorem resetDuringCommand : Obligations.ResetDuringCommand := by
  unfold Obligations.ResetDuringCommand
  intro s w
  obtain ⟨u, hu⟩ := performCommand_completes w s
  refine ⟨(emitted s u).take (Config.resetPrefix s.draws), s.draws + 1,
    performAccess_hardResetDuring hu, fun c t hw ht => ?_, fun hw => ?_⟩
  · cases ((performCommand_of_decode hw s).trans ht).symm.trans hu
    obtain ⟨bits, hbits⟩ := exec_out_prefix ht
    rw [emitted_of_out_eq hbits.symm]
    exact ⟨bits, hbits.symm, List.take_prefix _ _⟩
  · have hout : u.out = s.out ++ [] := by
      rw [performCommand_out_of_not_gen hw hu, List.append_nil]
    rw [emitted_of_out_eq hout, List.take_nil]

/-! ### `OUT` as a history (R123) -/

/-- Settles O39: of the writes an event makes, only GEN's and those of a reset inside it reach `OUT`, and
they append. -/
theorem outOnlyGrows : Obligations.OutOnlyGrows := by
  unfold Obligations.OutOnlyGrows
  exact ⟨rfl, fun s _ => step_keeps (fun u => s.out <+: u.out)
    (hpending := fun _ _ hu => hu) (hanswer := fun _ _ hu => hu) (haux := fun _ _ _ hu => hu)
    (hdin := fun _ _ _ hu => hu) (hbad := fun _ hu => hu)
    (hexec := fun _ _ _ hu hx => hu.trans (exec_out_prefix hx))
    (hreset := fun _ hu => hu) (hemit := fun _ b hu => hu.trans (List.prefix_append _ b))
    (hdraw := fun _ hu => hu) (List.prefix_refl s.out)⟩

end Sys2Proof.Machine
